-- ==== Sys2Proof/Word.lean ====
section
/-! DEFINITION. The value types of the block: levels, codes, registers' widths, sectors, directions, pins, units
(spec/30_encoding.md rule R65, spec/10_state.md rules R21 to R29). -/

namespace Sys2Proof

/-- An 8-bit command code `op[7:0]` (R62). -/
abbrev Byte := BitVec 8

/-- A Hall channel level, 0 or 1 (R21, R65). -/
abbrev Level := Bool

/-- A raw Hall code, `raw[2:0]`, 0 .. 7 (R22, R60). -/
abbrev Raw := BitVec 3

/-- A sample of the time counter, and a difference of two: `W_TS = 32` bits, unsigned (R27, R28, R176; log 5). -/
abbrev Time := BitVec 32

/-- The rotation count's register: `W_ROT = 32` bits, read as two's complement (R26; log 5). -/
abbrev Rot := BitVec 32

/-- The edge counter's register: `W_CNT = 32` bits, unsigned (R29; log 5). -/
abbrev Count := BitVec 32

/-- A valid sector, 0 .. 5 (R23; the invalid marker of the table is never stored; log 15). -/
abbrev Sector := Fin 6

/-- A pin identifier, an integer `>= 0` (R65). -/
abbrev Pin := Nat

/-- A physical unit, 0 or 1: `N_UNITS = 2` (R37, R65). -/
abbrev UnitId := Fin 2

/-- A sub-timer of a unit, 0, 1 or 2 (R37). -/
abbrev TmrId := Fin 3

/-- A signed unit, `+1` or `-1` (R24, R69). -/
inductive Dir where
  | pos   -- +1
  | neg   -- -1
deriving DecidableEq, Repr

/-- A Hall channel (R68). -/
inductive Channel where
  | a | b | c
deriving DecidableEq, Repr

/-- A motor-interface topology (R66). -/
inductive Topology where
  | threePhase | stepper | sixPhase
deriving DecidableEq, Repr

/-- One of the two compare/output halves of a sub-timer (R11, R37). -/
inductive Operator where
  | A | B
deriving DecidableEq, Repr

/-- One physical output line `u<n>.t<m><X>` (R121). -/
structure Route where
  unit : UnitId
  tmr  : TmrId
  op   : Operator
deriving DecidableEq, Repr

/-- One slot of one of the three pools: `pool3[i]`, `pool4[k]`, `pool6[j]` (R33, with `N3 = 4`, `N4 = 2`, `N6 = 2`). -/
inductive Slot where
  | s3 (i : Fin 4)
  | s4 (k : Fin 2)
  | s6 (j : Fin 2)
deriving DecidableEq, Repr

end Sys2Proof
end

