-- ==== Sys2Proof/Config.lean ====
section
/-! DEFINITION. The parameters the spec leaves to the model's caller (spec/00_scope.md rule R7, spec/10_state.md
rule R20). They are constants of one block: State carries them, no operation writes them, and every meaning reads
them from there, so that a statement about every state holds for every choice of them (log 4). -/

namespace Sys2Proof

/-- The open parameters of R7 and R20. `CPR = 6*PP` is derived, not stored (R20). -/
structure Params where
  /-- `PIN_A`, `PIN_B`, `PIN_C`: opaque identifiers, read by no rule but the attach glue (D33). -/
  pinA : Pin
  pinB : Pin
  pinC : Pin
  /-- `PP`, pole pairs, premise `PP >= 1`. -/
  polePairs : Nat
  /-- `NAT`, the natural direction. -/
  nat : Dir
  /-- `TICK_HZ`, timestamp ticks per second. -/
  tickHz : Nat
  /-- `DIR_RESET`, the reset value of `dir`. -/
  dirReset : Dir
  /-- `F_DEFAULT`, the applied frequency when none is requested, in Hz. -/
  fDefault : Nat
  /-- `F_CEIL_34`, the ceiling for three-phase and stepper, in Hz. -/
  fCeil34 : Nat
  /-- `F_CEIL_6`, the ceiling for six-phase, in Hz. -/
  fCeil6 : Nat
deriving DecidableEq, Repr

/-- The premises the spec puts on the parameters: `PP >= 1` (R20, U9), `F_DEFAULT > 0` and `F_CEIL_34 > F_CEIL_6 > 0`
(R135, D18); and `TICK_HZ >= 1`, a tick rate (DEDUCED, log 4). `NAT` is one of `+1`, `-1` by its type. -/
def Params.wf (p : Params) : Bool :=
  decide (1 ≤ p.polePairs) && decide (1 ≤ p.tickHz) && decide (0 < p.fDefault) && decide (0 < p.fCeil6)
    && decide (p.fCeil6 < p.fCeil34)

/-- The parameters `State.reset` is built with: the defaults of R7 where it gives one, and the values at the head of
spec/95_test_vectors.md for `PP` and `NAT`, which have none. DESIGN CHOICE, log 4. -/
def Params.nominal : Params where
  pinA := 0
  pinB := 1
  pinC := 2
  polePairs := 7
  nat := .pos
  tickHz := 1000000
  dirReset := .pos
  fDefault := 40000
  fCeil34 := 60000
  fCeil6 := 40000

end Sys2Proof
end

