-- ==== Sys2Proof/Syntax.lean ====
section
/-! DEFINITION. The 34 operations, one constructor per row of spec/opcode_table.json, with the operands of the rule
each row names (spec/30_encoding.md rules R64, R65). -/

namespace Sys2Proof

/-- A frequency request: `Unset`, or an integer `f >= 0` of Hz (R70). -/
inductive FreqReq where
  | unset
  | hz (f : Nat)
deriving DecidableEq, Repr

/-- A dead-zone operand: none, or a fraction (R65). The fraction is an exact real, held as a rational (log 3). -/
inductive DeadZone where
  | absent
  | frac (z : Rat)
deriving DecidableEq, Repr

/-- The operations. Duties are exact reals, held as rationals (R65, R8; log 3). -/
inductive Instr where
  | sect (r : Raw)
  | hallInit (a b c : Level) (now : Time)
  | cbAttach
  | cbDetach
  | irqAttachA
  | irqAttachB
  | irqAttachC
  | edgeA (lvl : Level) (now : Time)
  | edgeB (lvl : Level) (now : Time)
  | edgeC (lvl : Level) (now : Time)
  | getAngle
  | getVelocity (now : Time)
  | needsZeroSearch
  | hasAbsZero
  | zeroRel
  | zeroAbs
  | rdLevels
  | rdRaw
  | rdSector
  | rdDir
  | rdRot
  | rdTs
  | rdIvl
  | rdEdges
  | alloc3 (pinA pinB pinC : Pin)
  | alloc4 (pin1A pin1B pin2A pin2B : Pin)
  | alloc6 (pinAH pinAL pinBH pinBL pinCH pinCL : Pin)
  | sealSlots   -- SEAL
  | config3 (u : UnitId) (req : FreqReq)
  | config4 (u : UnitId) (req : FreqReq)
  | config6 (u : UnitId) (req : FreqReq) (dz : DeadZone)
  | write3 (key : Pin) (dA dB dC : Rat)
  | write4 (key : Pin) (d1A d1B d2A d2B : Rat)
  | write6 (key : Pin) (dA dB dC : Rat)
deriving DecidableEq, Repr

end Sys2Proof
end

