-- ==== Sys2Proof/Decode.lean ====
section
/-! DEFINITION. The command as the environment presents it (an 8-bit code and the operand ports), the decoder, the
encoder, and the table's numbering of an instruction's bits (spec/30_encoding.md rules R62 to R65, R72). -/

namespace Sys2Proof

/-- The operand ports. "Operands do not travel in the command code. Each operation has named operand ports" (R62);
an operation reads the ports of its own operands only. A port is as wide as the value that can be put on it: a pin
port and the unit port carry any integer, and the decoder refuses one outside the operand's type (U11; log 2, log 13). -/
structure Ports where
  r    : Raw
  a    : Level
  b    : Level
  c    : Level
  lvl  : Level
  now  : Time
  /-- The pins of an allocation request, in the order of its rule (R123 to R125). -/
  pin0 : Int
  pin1 : Int
  pin2 : Int
  pin3 : Int
  pin4 : Int
  pin5 : Int
  unit : Int
  freq : FreqReq
  dz   : DeadZone
  /-- `pin_key` of a duty write (R65). -/
  key  : Int
  /-- The duties of a write, in the order of its rule (R152 to R154). -/
  d0   : Rat
  d1   : Rat
  d2   : Rat
  d3   : Rat
deriving DecidableEq, Repr

/-- Every port at zero: no level, time 0, pins 0, no frequency, no dead zone, duties 0. -/
def Ports.idle : Ports where
  r := 0
  a := false
  b := false
  c := false
  lvl := false
  now := 0
  pin0 := 0
  pin1 := 0
  pin2 := 0
  pin3 := 0
  pin4 := 0
  pin5 := 0
  unit := 0
  freq := .unset
  dz := .absent
  key := 0
  d0 := 0
  d1 := 0
  d2 := 0
  d3 := 0

/-- One presented command: the code and the ports beside it (format `CMD8`, R62). -/
structure Command where
  code  : Byte
  ports : Ports
deriving DecidableEq, Repr

/-- Why a command is no operation. -/
inductive DecodeError where
  /-- A command code outside the table of R64 (R72 b, U10). -/
  | reservedCode (code : Byte)
  /-- A `unit` operand outside `0 .. N_UNITS-1` (U11). -/
  | unitOutOfRange (u : Int)
  /-- A pin identifier `< 0` (U11). -/
  | negativePin (p : Int)
deriving DecidableEq, Repr

/-- `grp`, `op[7:4]` (R62). -/
def codeGroup (code : Byte) : BitVec 4 := code.extractLsb' 4 4

/-- `fn`, `op[3:0]` (R62). -/
def codeFn (code : Byte) : BitVec 4 := code.extractLsb' 0 4

/-- A pin port read as a `Pin` (R65, R67). -/
def portPin (p : Int) : Except DecodeError Pin :=
  if 0 ≤ p then .ok p.toNat else .error (.negativePin p)

/-- The unit port read as a `Unit` (R65). -/
def portUnit (u : Int) : Except DecodeError UnitId :=
  if u = 0 then .ok 0 else if u = 1 then .ok 1 else .error (.unitOutOfRange u)

/-- Group 1: setup functions `fn[3:2] = 00`, interrupt attach `01`, edges `10` (R63). -/
def decodeHallSetup (code : Byte) (p : Ports) : Except DecodeError Instr :=
  match (codeFn code).toNat with
  | 0x0 => .ok (.hallInit p.a p.b p.c p.now)
  | 0x1 => .ok .cbAttach
  | 0x2 => .ok .cbDetach
  | 0x4 => .ok .irqAttachA
  | 0x5 => .ok .irqAttachB
  | 0x6 => .ok .irqAttachC
  | 0x8 => .ok (.edgeA p.lvl p.now)
  | 0x9 => .ok (.edgeB p.lvl p.now)
  | 0xA => .ok (.edgeC p.lvl p.now)
  | _ => .error (.reservedCode code)

/-- Group 2: computed queries and zeroing `fn[3] = 0`, raw field reads `fn[3] = 1` with the selector of R75. -/
def decodeHallQuery (code : Byte) (p : Ports) : Except DecodeError Instr :=
  match (codeFn code).toNat with
  | 0x0 => .ok .getAngle
  | 0x1 => .ok (.getVelocity p.now)
  | 0x2 => .ok .needsZeroSearch
  | 0x3 => .ok .hasAbsZero
  | 0x4 => .ok .zeroRel
  | 0x5 => .ok .zeroAbs
  | 0x8 => .ok .rdLevels
  | 0x9 => .ok .rdRaw
  | 0xA => .ok .rdSector
  | 0xB => .ok .rdDir
  | 0xC => .ok .rdRot
  | 0xD => .ok .rdTs
  | 0xE => .ok .rdIvl
  | 0xF => .ok .rdEdges
  | _ => .error (.reservedCode code)

/-- Group 3: the allocations by topology tag, and `SEAL` at 0x3F (R64). -/
def decodeRegistry (code : Byte) (p : Ports) : Except DecodeError Instr :=
  match (codeFn code).toNat with
  | 0x0 => do
    let p0 ← portPin p.pin0
    let p1 ← portPin p.pin1
    let p2 ← portPin p.pin2
    .ok (.alloc3 p0 p1 p2)
  | 0x1 => do
    let p0 ← portPin p.pin0
    let p1 ← portPin p.pin1
    let p2 ← portPin p.pin2
    let p3 ← portPin p.pin3
    .ok (.alloc4 p0 p1 p2 p3)
  | 0x2 => do
    let p0 ← portPin p.pin0
    let p1 ← portPin p.pin1
    let p2 ← portPin p.pin2
    let p3 ← portPin p.pin3
    let p4 ← portPin p.pin4
    let p5 ← portPin p.pin5
    .ok (.alloc6 p0 p1 p2 p3 p4 p5)
  | 0xF => .ok .sealSlots
  | _ => .error (.reservedCode code)

/-- Group 4: the configurations by topology tag (R64). -/
def decodeTimer (code : Byte) (p : Ports) : Except DecodeError Instr :=
  match (codeFn code).toNat with
  | 0x0 => do
    let u ← portUnit p.unit
    .ok (.config3 u p.freq)
  | 0x1 => do
    let u ← portUnit p.unit
    .ok (.config4 u p.freq)
  | 0x2 => do
    let u ← portUnit p.unit
    .ok (.config6 u p.freq p.dz)
  | _ => .error (.reservedCode code)

/-- Group 5: the duty writes by topology tag (R64). -/
def decodeDuty (code : Byte) (p : Ports) : Except DecodeError Instr :=
  match (codeFn code).toNat with
  | 0x0 => do
    let k ← portPin p.key
    .ok (.write3 k p.d0 p.d1 p.d2)
  | 0x1 => do
    let k ← portPin p.key
    .ok (.write4 k p.d0 p.d1 p.d2 p.d3)
  | 0x2 => do
    let k ← portPin p.key
    .ok (.write6 k p.d0 p.d1 p.d2)
  | _ => .error (.reservedCode code)

/-- The operation a command stands for: the group of the code first, then the function inside it (R62, R64); a code
outside the table is refused as reserved (R72 b). -/
def decode (c : Command) : Except DecodeError Instr :=
  match (codeGroup c.code).toNat with
  | 0x0 => if codeFn c.code = 0 then .ok (.sect c.ports.r) else .error (.reservedCode c.code)
  | 0x1 => decodeHallSetup c.code c.ports
  | 0x2 => decodeHallQuery c.code c.ports
  | 0x3 => decodeRegistry c.code c.ports
  | 0x4 => decodeTimer c.code c.ports
  | 0x5 => decodeDuty c.code c.ports
  | _ => .error (.reservedCode c.code)

/-- The command code of an operation, column "code" of R64. -/
def Instr.code : Instr → Byte
  | .sect _ => 0x00
  | .hallInit _ _ _ _ => 0x10
  | .cbAttach => 0x11
  | .cbDetach => 0x12
  | .irqAttachA => 0x14
  | .irqAttachB => 0x15
  | .irqAttachC => 0x16
  | .edgeA _ _ => 0x18
  | .edgeB _ _ => 0x19
  | .edgeC _ _ => 0x1A
  | .getAngle => 0x20
  | .getVelocity _ => 0x21
  | .needsZeroSearch => 0x22
  | .hasAbsZero => 0x23
  | .zeroRel => 0x24
  | .zeroAbs => 0x25
  | .rdLevels => 0x28
  | .rdRaw => 0x29
  | .rdSector => 0x2A
  | .rdDir => 0x2B
  | .rdRot => 0x2C
  | .rdTs => 0x2D
  | .rdIvl => 0x2E
  | .rdEdges => 0x2F
  | .alloc3 _ _ _ => 0x30
  | .alloc4 _ _ _ _ => 0x31
  | .alloc6 _ _ _ _ _ _ => 0x32
  | .sealSlots => 0x3F
  | .config3 _ _ => 0x40
  | .config4 _ _ => 0x41
  | .config6 _ _ _ => 0x42
  | .write3 _ _ _ _ => 0x50
  | .write4 _ _ _ _ _ => 0x51
  | .write6 _ _ _ _ => 0x52

/-- The operand ports of an operation: its operands on their ports, every other port idle. -/
def Instr.ports : Instr → Ports
  | .sect r => { Ports.idle with r := r }
  | .hallInit a b c now => { Ports.idle with a := a, b := b, c := c, now := now }
  | .edgeA lvl now => { Ports.idle with lvl := lvl, now := now }
  | .edgeB lvl now => { Ports.idle with lvl := lvl, now := now }
  | .edgeC lvl now => { Ports.idle with lvl := lvl, now := now }
  | .getVelocity now => { Ports.idle with now := now }
  | .alloc3 p0 p1 p2 => { Ports.idle with pin0 := p0, pin1 := p1, pin2 := p2 }
  | .alloc4 p0 p1 p2 p3 => { Ports.idle with pin0 := p0, pin1 := p1, pin2 := p2, pin3 := p3 }
  | .alloc6 p0 p1 p2 p3 p4 p5 =>
    { Ports.idle with pin0 := p0, pin1 := p1, pin2 := p2, pin3 := p3, pin4 := p4, pin5 := p5 }
  | .config3 u req => { Ports.idle with unit := u.val, freq := req }
  | .config4 u req => { Ports.idle with unit := u.val, freq := req }
  | .config6 u req dz => { Ports.idle with unit := u.val, freq := req, dz := dz }
  | .write3 k d0 d1 d2 => { Ports.idle with key := k, d0 := d0, d1 := d1, d2 := d2 }
  | .write4 k d0 d1 d2 d3 => { Ports.idle with key := k, d0 := d0, d1 := d1, d2 := d2, d3 := d3 }
  | .write6 k d0 d1 d2 => { Ports.idle with key := k, d0 := d0, d1 := d1, d2 := d2 }
  | .cbAttach | .cbDetach | .irqAttachA | .irqAttachB | .irqAttachC | .getAngle | .needsZeroSearch | .hasAbsZero
  | .zeroRel | .zeroAbs | .rdLevels | .rdRaw | .rdSector | .rdDir | .rdRot | .rdTs | .rdIvl | .rdEdges | .sealSlots =>
    Ports.idle

/-- The command that presents an operation. -/
def encode (i : Instr) : Command := { code := i.code, ports := i.ports }

/-- The command whose code is the low 8 of the bits `w`, numbered as spec/opcode_table.json numbers them; the operands
are no bits of the code, and every port is at zero (R62). -/
def Command.ofTableWord (nbits w : Nat) : Command :=
  { code := BitVec.ofNat 8 (w % 2 ^ nbits), ports := Ports.idle }

/-- The operation this decoder reads from an instruction whose table bits are `w`. -/
def decodeTableWord (nbits w : Nat) : Option Instr :=
  match decode (Command.ofTableWord nbits w) with
  | .ok i => some i
  | .error _ => none

end Sys2Proof
end

