-- ==== Sys2Proof/Machine/State.lean ====
section
/-! DEFINITION. The state of the block: the Hall half, the PWM half, the parameters, and what the environment drives
and observes (spec/10_state.md rules R20 to R43). Plain data. There is no program counter, no byte-addressed memory and
no condition-code register (R38, R39, R40). -/

namespace Sys2Proof.Machine

/-- Why the machine stops with a fault: never. No operation of this block faults (R163); pool exhaustion is a result
value, not a stop (R160), and the silent no-ops report nothing (R161, R162). The type is empty. -/
inductive Fault
deriving DecidableEq, Repr

/-- Why a step has no meaning: the situations of R164 and U11. -/
inductive Refusal where
  /-- Raised by an arm of `exec` whose instruction has no meaning yet; none is left. Safe: the run stops. -/
  | notModelled (mnemonic : String)
  /-- Raised by `step` on a command code outside the table of R64 (R72 b, R164, U10). Safe: the run stops. -/
  | reservedCode (code : Byte)
  /-- Raised by `step` on a `unit` operand outside 0 .. 1 (U11). Safe: the run stops. -/
  | unitOutOfRange (u : Int)
  /-- Raised by `step` on a pin operand below 0 (U11). Safe: the run stops. -/
  | negativePin (p : Int)
  /-- Raised by `ALLOC3`, `ALLOC4`, `ALLOC6` in `phase = Run` (R120, R164, U1). Safe: the run stops. -/
  | allocationAfterSeal
deriving DecidableEq, Repr

/-! ### The Hall half (R20 to R32) -/

/-- The Hall Estimator's registers. -/
structure Hall where
  /-- `lvl_a`, `lvl_b`, `lvl_c` (R21). -/
  lvlA : Level
  lvlB : Level
  lvlC : Level
  /-- `raw` (R22). -/
  raw : Raw
  /-- `sector` (R23). -/
  sector : Sector
  /-- `dir` (R24). -/
  dir : Dir
  /-- `prev_dir`; `none` is the spec's `NONE` (R25). -/
  prevDir : Option Dir
  /-- `rot` (R26). -/
  rot : Rot
  /-- `ts` (R27). -/
  ts : Time
  /-- `ivl` (R28). -/
  ivl : Time
  /-- `edges` (R29). -/
  edges : Count
  /-- `cb_en` (R30). -/
  cbEn : Bool
  /-- `irq_en_a`, `irq_en_b`, `irq_en_c` (R31). -/
  irqEnA : Bool
  irqEnB : Bool
  irqEnC : Bool
deriving DecidableEq, Repr

/-! ### The PWM half (R33 to R37) -/

/-- A slot marker, `assigned_pin` (R33, R67). -/
inductive Marker where
  | empty
  | taken
  | pin (p : Pin)
deriving DecidableEq, Repr

/-- `phase` (R36). -/
inductive Phase where
  | setup
  | run
deriving DecidableEq, Repr

/-- `unit[u].tmr[t].mode` (R37). -/
inductive CountMode where
  | off
  | upDown
deriving DecidableEq, Repr

/-- `unit[u].tmr[t].duty_mode` (R37). -/
inductive DutyMode where
  | unset
  | activeHigh
deriving DecidableEq, Repr

/-- `unit[u].tmr[t].dt_mode` (R37). -/
inductive DeadTimeMode where
  | off
  | complementary
deriving DecidableEq, Repr

/-- One sub-timer's registers (R37). The reals are exact (R8; log 3). -/
structure SubTimer where
  mode : CountMode
  freq : Nat
  dutyMode : DutyMode
  /-- `duty[A]`, `duty[B]`, in percent. -/
  dutyA : Rat
  dutyB : Rat
  dtMode : DeadTimeMode
  /-- `dt_rise`, `dt_fall`, in ticks of 100 ns. -/
  dtRise : Rat
  dtFall : Rat
deriving DecidableEq, Repr

/-- One physical unit: three sub-timers and the synchronisation flag (R37). -/
structure PwmUnit where
  tmr : Vector SubTimer 3
  aligned : Bool
deriving DecidableEq, Repr

/-- The three pools, the setup phase and the two units. -/
structure Pwm where
  pool3 : Vector Marker 4
  pool4 : Vector Marker 2
  pool6 : Vector Marker 2
  phase : Phase
  units : Vector PwmUnit 2
deriving DecidableEq, Repr

/-! ### What the environment observes -/

/-- `SlotHandle`, the value a successful allocation returns (R127). -/
structure SlotHandle where
  topology : Topology
  index : Nat
  unit : UnitId
  operators : List Operator
  bindings : List (Pin × Route)
deriving DecidableEq, Repr

/-- The result of an operation (R65). `angle q` is `q * PI` radians and `velocity q` is `q * PI` radians per second:
both are rational multiples of `PI` (R8, R65; log 3). -/
inductive Result where
  /-- "Results: none". -/
  | nothing
  /-- `SectorOrInvalid` (R80); `none` is the invalid marker. -/
  | sectorOrInvalid (s : Option Sector)
  | angle (q : Rat)
  | velocity (q : Rat)
  /-- The constant answers of R108 and R109. -/
  | flag (b : Bool)
  | levels (v : Raw)
  | raw (v : Raw)
  | sector (s : Sector)
  | dir (d : Dir)
  | rot (v : Rot)
  | ts (v : Time)
  | ivl (v : Time)
  | edges (v : Count)
  | slot (h : SlotHandle)
  /-- `AllocationFailure` (R126, R160). -/
  | allocationFailure
deriving DecidableEq, Repr

/-- The block's outputs for the operation just executed: its result, and the callback event it emitted (R98; log 8). -/
structure Out where
  result : Result
  event : Option Sector
deriving DecidableEq, Repr

/-! ### Queries that are sequences of atomic reads (R47 c, R56, R169) -/

/-- A register a query reads. -/
inductive HallReg where
  | rot | sector | ivl | ts | dir
deriving DecidableEq, Repr

/-- What a query computes from the registers it has read (R106, R107, R111). -/
inductive QueryKind where
  | angle
  | minusAngle
  | velocity (now : Time)
deriving DecidableEq, Repr

/-- The register values a query has read so far; a register not yet read stands at zero here (log 10). -/
structure Latch where
  rot : Rot
  sector : Sector
  ivl : Time
  ts : Time
  dir : Dir
deriving DecidableEq, Repr

/-- Nothing read yet. -/
def Latch.clear : Latch where
  rot := 0
  sector := 0
  ivl := 0
  ts := 0
  dir := .pos

/-- A query in progress: the reads still to be made, in order, and the values read (R169). -/
structure Query where
  kind : QueryKind
  todo : List HallReg
  latch : Latch
deriving DecidableEq, Repr

/-- The order of the two reads of `GET_ANGLE` and `ZERO_ABS`, open in R106. -/
inductive AngleOrder where
  | rotSector
  | sectorRot
deriving DecidableEq, Repr

/-- The order of the three reads of `GET_VELOCITY`, open in R107. -/
inductive VelocityOrder where
  | ivlTsDir | ivlDirTs | tsIvlDir | tsDirIvl | dirIvlTs | dirTsIvl
deriving DecidableEq, Repr

/-- The environment's choices for one non-atomic operation: the read order, and how many reads are made before the
operation is pre-empted (three or more: it is not). Any value is possible (U4; log 9). -/
structure Sched where
  angleOrder : AngleOrder
  velocityOrder : VelocityOrder
  slice : Nat
deriving DecidableEq, Repr

/-- The pseudocode's order, not pre-empted. -/
def Sched.unhurried : Sched where
  angleOrder := .rotSector
  velocityOrder := .ivlTsDir
  slice := 3

/-- What the environment presents: an agent issues an operation, or the pre-empted query goes on for up to `slice` more
reads (R168, R169). -/
inductive Input where
  | command (c : Command) (sched : Sched)
  | resume (slice : Nat)
deriving DecidableEq, Repr

/-! ### The whole state -/

/-- The machine's state. -/
structure State where
  /-- The parameters (R7, R20): constants, written by no operation. -/
  params : Params
  hall : Hall
  pwm : Pwm
  out : Out
  /-- The queries in progress, the one that resumes first at the head (log 9). -/
  inflight : List Query
  /-- The environment's choices for the operation being executed. -/
  sched : Sched
  /-- What the environment presents next, oldest first (log 1). -/
  inputs : List Input
deriving DecidableEq, Repr

/-! ### Reset (R42, R185) -/

/-- The Hall registers at reset (R42). -/
def Hall.reset (p : Params) : Hall where
  lvlA := false
  lvlB := false
  lvlC := false
  raw := 0
  sector := 0
  dir := p.dirReset
  prevDir := none
  rot := 0
  ts := 0
  ivl := 0
  edges := 0
  cbEn := false
  irqEnA := false
  irqEnB := false
  irqEnC := false

/-- A sub-timer at reset (R42). -/
def SubTimer.reset : SubTimer where
  mode := .off
  freq := 0
  dutyMode := .unset
  dutyA := 0
  dutyB := 0
  dtMode := .off
  dtRise := 0
  dtFall := 0

/-- A unit at reset (R42). -/
def PwmUnit.reset : PwmUnit where
  tmr := #v[SubTimer.reset, SubTimer.reset, SubTimer.reset]
  aligned := false

/-- The PWM half at reset: every marker `Empty`, `phase = Setup`, the units off (R42). -/
def Pwm.reset : Pwm where
  pool3 := #v[.empty, .empty, .empty, .empty]
  pool4 := #v[.empty, .empty]
  pool6 := #v[.empty, .empty]
  phase := .setup
  units := #v[PwmUnit.reset, PwmUnit.reset]

/-- The block right after its construction with parameters `p` (R42, R185); nothing is presented yet. The fields that
are the model's own stand at the values of log 7. -/
def State.resetWith (p : Params) : State where
  params := p
  hall := Hall.reset p
  pwm := Pwm.reset
  out := { result := .nothing, event := none }
  inflight := []
  sched := Sched.unhurried
  inputs := []

/-- The machine right after reset, with the parameters `Params.nominal` (log 4). -/
def State.reset : State := State.resetWith Params.nominal

end Sys2Proof.Machine
end

