-- ==== Sys2Proof/Machine/Operands.lean ====
section
/-! DEFINITION. The operand forms and the fixed tables: the Sector Table, the assembly of the raw code, the signed
units, the slot table and the conflict sets, the frequency, duty and dead-time transformations, and the spec's integer
codes (spec/30_encoding.md, 40, 43, 44, 45). -/

namespace Sys2Proof.Machine

/-! ### The raw code and the Sector Table -/

/-- `{a, b, c}`, channel `a` the most significant bit: `raw = 4*a + 2*b + c` (R60). -/
def rawOf (a b c : Level) : Raw := BitVec.ofBool a ++ BitVec.ofBool b ++ BitVec.ofBool c

/-- `ROM`, the Sector Table (R81); `none` is the invalid marker `-1`. -/
def rom (r : Raw) : Option Sector :=
  match r.toNat with
  | 1 => some 0
  | 2 => some 4
  | 3 => some 5
  | 4 => some 2
  | 5 => some 1
  | 6 => some 3
  | _ => none

/-- The tables the source leaves possible, by the offset `s` of R82; R81 takes `s = 2` (log 6). -/
def romOffset (s : Sector) (r : Raw) : Option Sector :=
  match r.toNat with
  | 4 => some s
  | 6 => some (s + 1)
  | 2 => some (s + 2)
  | 3 => some (s + 3)
  | 1 => some (s + 4)
  | 5 => some (s + 5)
  | _ => none

/-- The signed sector of R65's `SectorOrInvalid`: 0 .. 5, or the invalid marker `-1` (R81). -/
def sectorCode : Option Sector → Int
  | none => -1
  | some s => s.val

/-! ### Signed units -/

/-- The signed unit as an integer (R24, R69). -/
def dirSign : Dir → Int
  | .pos => 1
  | .neg => -1

/-- The opposite direction, `-NAT` for `NAT`. -/
def dirFlip : Dir → Dir
  | .pos => .neg
  | .neg => .pos

/-! ### The integer codes of R66 to R69 and R160 -/

/-- `dir` as one bit: 0 is `+1`, 1 is `-1` (R69). -/
def dirBit : Dir → BitVec 1
  | .pos => 0
  | .neg => 1

/-- `prev_dir` as two bits: `00` is `+1`, `01` is `-1`, `10` is `NONE` (R69). -/
def prevDirBits : Option Dir → BitVec 2
  | some .pos => 0
  | some .neg => 1
  | none => 2

/-- The channel number (R68). -/
def channelCode : Channel → BitVec 2
  | .a => 0
  | .b => 1
  | .c => 2

/-- The topology tag (R66). -/
def topologyTag : Topology → BitVec 2
  | .threePhase => 0
  | .stepper => 1
  | .sixPhase => 2

/-- A marker as one integer: `EMPTY_CODE = -20`, `TAKEN_CODE = -21`, a pin as itself (R67). -/
def markerCode : Marker → Int
  | .empty => -20
  | .taken => -21
  | .pin p => p

/-- `ALLOC_FAIL_CODE` (R160). -/
def allocFailCode : Int := -1

/-! ### The slot table (R121) -/

/-- The topology whose pool the slot is in. -/
def slotTopology : Slot → Topology
  | .s3 _ => .threePhase
  | .s4 _ => .stepper
  | .s6 _ => .sixPhase

/-- The slot's index in its pool. -/
def slotIndex : Slot → Nat
  | .s3 i => i.val
  | .s4 k => k.val
  | .s6 j => j.val

/-- Column "unit" of R121: `i div 2` for a three-phase slot. -/
def slotUnit : Slot → UnitId
  | .s3 i => if i.val < 2 then 0 else 1
  | .s4 k => k
  | .s6 j => j

/-- The operator of a three-phase slot: A for an even index, B for an odd one (R121, R152). -/
def phaseOperator (i : Fin 4) : Operator := if i.val % 2 = 0 then .A else .B

/-- Column "operators" of R121. -/
def slotOperators : Slot → List Operator
  | .s3 i => [phaseOperator i]
  | .s4 _ => [.A, .B]
  | .s6 _ => [.A, .B]

/-- Column "routes" of R121, in the order of the request's pins. -/
def slotRoutes (x : Slot) : List Route :=
  let u := slotUnit x
  match x with
  | .s3 i => [⟨u, 0, phaseOperator i⟩, ⟨u, 1, phaseOperator i⟩, ⟨u, 2, phaseOperator i⟩]
  | .s4 _ => [⟨u, 0, .A⟩, ⟨u, 1, .A⟩, ⟨u, 0, .B⟩, ⟨u, 1, .B⟩]
  | .s6 _ => [⟨u, 0, .A⟩, ⟨u, 0, .B⟩, ⟨u, 1, .A⟩, ⟨u, 1, .B⟩, ⟨u, 2, .A⟩, ⟨u, 2, .B⟩]

/-- The slots of a topology's pool, in index order (R33). -/
def poolSlots : Topology → List Slot
  | .threePhase => [.s3 0, .s3 1, .s3 2, .s3 3]
  | .stepper => [.s4 0, .s4 1]
  | .sixPhase => [.s6 0, .s6 1]

/-- The two three-phase slots of a unit, `pool3[2u]` and `pool3[2u+1]` (R121). -/
def phaseSlots (u : UnitId) : List Slot := if u = 0 then [.s3 0, .s3 1] else [.s3 2, .s3 3]

/-- `conf(slot)`, the slots of the other two topologies that share its unit and an operator (R122). -/
def conf : Slot → List Slot
  | .s3 i => [.s4 (slotUnit (.s3 i)), .s6 (slotUnit (.s3 i))]
  | .s4 k => phaseSlots k ++ [.s6 k]
  | .s6 j => phaseSlots j ++ [.s4 j]

/-- The handle of a slot allocated for a request's pins (R127). -/
def slotHandle (x : Slot) (pins : List Pin) : SlotHandle where
  topology := slotTopology x
  index := slotIndex x
  unit := slotUnit x
  operators := slotOperators x
  bindings := pins.zip (slotRoutes x)

/-! ### Frequency, dead time, duty -/

/-- The frequency ceiling of a topology (R135). -/
def freqCeiling (p : Params) : Topology → Nat
  | .threePhase => p.fCeil34
  | .stepper => p.fCeil34
  | .sixPhase => p.fCeil6

/-- `normalise(T, req)`: the default for `Unset` and 0, else the doubled request, clamped to the ceiling (R135). -/
def normalise (p : Params) (T : Topology) : FreqReq → Nat
  | .unset => p.fDefault
  | .hz f => if f = 0 then p.fDefault else min (2 * f) (freqCeiling p T)

/-- The dead time `(10^7 / fa) * z` in ticks of 100 ns, exact (R140). -/
def deadTime (fa : Nat) (z : Rat) : Rat := (10000000 / (fa : Rat)) * z

/-- `pct(d) = 100 * d`, exact, not clamped (R151). -/
def pct (d : Rat) : Rat := 100 * d

/-- The PWM output frequency of a sub-timer in `UpDown` mode, `freq / 2` (R142). -/
def outputFreq (t : SubTimer) : Rat := (t.freq : Rat) / 2

end Sys2Proof.Machine
end

