-- ==== Sys2Proof/Machine/Flags.lean ====
section
/-! DEFINITION. Step 2 of the transition: the direction (the block's one flag-like state, R39) and the rotation it
counts (spec/41_hall_fsm.md rules R94, R97). The block has no condition-code register (R39). -/

namespace Sys2Proof.Machine

/-- `delta = ns - sector`, signed, in `-5 .. 5` (R94). -/
def sectorDelta (old new : Sector) : Int := (new.val : Int) - (old.val : Int)

/-- A wraparound: `delta > 3` or `delta < -3` (R94). -/
def isWrap (old new : Sector) : Bool := decide (sectorDelta old new > 3) || decide (sectorDelta old new < -3)

/-- The direction `nd` of step 2 (R94). -/
def stepDir (nat : Dir) (old new : Sector) : Dir :=
  if sectorDelta old new > 3 then dirFlip nat
  else if sectorDelta old new < -3 then nat
  else if old < new then nat
  else dirFlip nat

/-- `rotation_count += direction` on a wraparound, nothing otherwise (R94). -/
def rotChange (nat : Dir) (old new : Sector) : Int :=
  if isWrap old new then dirSign (stepDir nat old new) else 0

/-- `wrapS_W_ROT(rot + d)` (R26, R94). -/
def wrapRot (rot : Rot) (d : Int) : Rot := BitVec.ofInt 32 (rot.toInt + d)

end Sys2Proof.Machine
end

