-- ==== Sys2Proof/Machine/Ops.lean ====
section
/-! DEFINITION. The named operations over the state: the outputs, the Hall registers and the edge pass (the entry of an
interrupt and its return), the atomic reads of a query, the pools, the PWM registers. -/

namespace Sys2Proof.Machine

/-! ### Outputs -/

/-- The operation ends with result `r` and no callback event (R65; log 8). -/
def State.answer (r : Result) (s : State) : State := { s with out := { result := r, event := none } }

/-- The operation has no result, and emits `e` (R98; log 8). -/
def State.emit (e : Option Sector) (s : State) : State := { s with out := { result := .nothing, event := e } }

/-- The Hall registers become `h`. -/
def State.setHall (h : Hall) (s : State) : State := { s with hall := h }

/-- The PWM half becomes `p`. -/
def State.setPwm (p : Pwm) (s : State) : State := { s with pwm := p }

/-! ### The Hall registers -/

/-- `lvl_x` (R21). -/
def Hall.level (h : Hall) : Channel → Level
  | .a => h.lvlA
  | .b => h.lvlB
  | .c => h.lvlC

/-- `lvl_x <- lvl` (R21, R92). -/
def Hall.setLevel (h : Hall) (x : Channel) (lvl : Level) : Hall :=
  match x with
  | .a => { h with lvlA := lvl }
  | .b => { h with lvlB := lvl }
  | .c => { h with lvlC := lvl }

/-- `irq_en_x` (R31). -/
def Hall.attached (h : Hall) : Channel → Bool
  | .a => h.irqEnA
  | .b => h.irqEnB
  | .c => h.irqEnC

/-- `irq_en_x <- 1`; nothing ever clears it (R31, R91, R88, R89). -/
def Hall.attach (h : Hall) (x : Channel) : Hall :=
  match x with
  | .a => { h with irqEnA := true }
  | .b => { h with irqEnB := true }
  | .c => { h with irqEnC := true }

/-- `{lvl_a, lvl_b, lvl_c}` (R60). -/
def Hall.code (h : Hall) : Raw := rawOf h.lvlA h.lvlB h.lvlC

/-- Steps 2 to 4 for a valid new sector `ns` (R94, R95, R96): direction and rotation, the pulse interval taken with
`prev_dir` and `ts` before they are overwritten, then the bookkeeping. -/
def Hall.transition (h : Hall) (nat : Dir) (ns : Sector) (now : Time) : Hall :=
  { h with
    rot := wrapRot h.rot (rotChange nat h.sector ns)
    ivl := if h.prevDir = some (stepDir nat h.sector ns) then now - h.ts else 0
    dir := stepDir nat h.sector ns
    prevDir := some (stepDir nat h.sector ns)
    ts := now
    edges := h.edges + 1
    sector := ns }

/-- `RECOMPUTE(now)`: the registers after it, and the callback event it emits (R85). Step 1 rewrites `raw`; an invalid
code ends the procedure there (R93); a valid one runs steps 2 to 4 and then emits `ns` if `cb_en = 1` (R98). -/
def Hall.recompute (h : Hall) (nat : Dir) (now : Time) : Hall × Option Sector :=
  match rom h.code with
  | none => ({ h with raw := h.code }, none)
  | some ns => (Hall.transition { h with raw := h.code } nat ns now, if h.cbEn then some ns else none)

/-- `HALL_INIT`'s registers (R90). -/
def Hall.init (h : Hall) (a b c : Level) (now : Time) : Hall :=
  { h with
    lvlA := a
    lvlB := b
    lvlC := c
    raw := rawOf a b c
    sector := (rom (rawOf a b c)).getD h.sector
    rot := 0
    ivl := 0
    ts := now
    prevDir := none
    edges := 0 }

/-- The entry of the block's interrupt and its return, one atomic pass (R169, R170, R47 b). On a channel with
`irq_en_x = 1` the handler stores the level it read and recomputes; nothing is saved on entry and nothing restored on
return; the callback event, if any, ends the pass (R171). On a channel not attached nothing happens (R92). -/
def edgePass (x : Channel) (lvl : Level) (now : Time) (s : State) : State :=
  if s.hall.attached x then
    (s.setHall ((s.hall.setLevel x lvl).recompute s.params.nat now).1).emit
      ((s.hall.setLevel x lvl).recompute s.params.nat now).2
  else s.emit none

/-! ### Angle and velocity -/

/-- `CPR = 6 * PP` (R6, R20). -/
def countsPerRev (p : Params) : Nat := 6 * p.polePairs

/-- The position count `6*rot + sector` (R105). -/
def positionCount (rot : Rot) (sector : Sector) : Int := 6 * rot.toInt + (sector.val : Int)

/-- The angle `NAT * cnt * 2*PI / CPR`, as a multiple of `PI` (R105, R106). -/
def angleOf (p : Params) (rot : Rot) (sector : Sector) : Rat :=
  (dirSign p.nat : Rat) * ((positionCount rot sector : Rat) * 2 / (countsPerRev p : Rat))

/-- The velocity, as a multiple of `PI`: zero without an interval and when the elapsed time exceeds it, else
`d * (2*PI / CPR) / (i / TICK_HZ)` (R107). -/
def velocityOf (p : Params) (now : Time) (i t : Time) (d : Dir) : Rat :=
  if i = 0 then 0
  else if i < now - t then 0
  else (dirSign d : Rat) * (2 / (countsPerRev p : Rat)) / ((i.toNat : Rat) / (p.tickHz : Rat))

/-! ### The atomic reads of a query (R47 c, R56) -/

/-- One atomic register read into the latch. -/
def Latch.read (l : Latch) (r : HallReg) (h : Hall) : Latch :=
  match r with
  | .rot => { l with rot := h.rot }
  | .sector => { l with sector := h.sector }
  | .ivl => { l with ivl := h.ivl }
  | .ts => { l with ts := h.ts }
  | .dir => { l with dir := h.dir }

/-- Up to `n` of the reads still to be made. -/
def Query.advance : Nat → Query → Hall → Query
  | 0, q, _ => q
  | n + 1, q, h =>
    match q.todo with
    | [] => q
    | r :: rest => Query.advance n { q with todo := rest, latch := q.latch.read r h } h

/-- The query's result, from the registers it has read (R106, R107, R111). -/
def Query.result (p : Params) (q : Query) : Result :=
  match q.kind with
  | .angle => .angle (angleOf p q.latch.rot q.latch.sector)
  | .minusAngle => .angle (-angleOf p q.latch.rot q.latch.sector)
  | .velocity now => .velocity (velocityOf p now q.latch.ivl q.latch.ts q.latch.dir)

/-- The loop agent makes up to `n` reads of the query `q`: with none left the query ends with its result, else it stays
in progress with what it has read (R169; log 9). -/
def runQuery (n : Nat) (q : Query) (s : State) : State :=
  if (q.advance n s.hall).todo = [] then s.answer ((q.advance n s.hall).result s.params)
  else { s.answer .nothing with inflight := q.advance n s.hall :: s.inflight }

/-- The reads of `GET_ANGLE` and `ZERO_ABS` in an order (R106, R111). -/
def angleReads : AngleOrder → List HallReg
  | .rotSector => [.rot, .sector]
  | .sectorRot => [.sector, .rot]

/-- The reads of `GET_VELOCITY` in an order (R107). -/
def velocityReads : VelocityOrder → List HallReg
  | .ivlTsDir => [.ivl, .ts, .dir]
  | .ivlDirTs => [.ivl, .dir, .ts]
  | .tsIvlDir => [.ts, .ivl, .dir]
  | .tsDirIvl => [.ts, .dir, .ivl]
  | .dirIvlTs => [.dir, .ivl, .ts]
  | .dirTsIvl => [.dir, .ts, .ivl]

/-- The query a non-atomic operation starts, its read order as the environment chose (U4). -/
def startQuery (k : QueryKind) (sched : Sched) : Query :=
  { kind := k
    todo := match k with
      | .angle => angleReads sched.angleOrder
      | .minusAngle => angleReads sched.angleOrder
      | .velocity _ => velocityReads sched.velocityOrder
    latch := Latch.clear }

/-- A non-atomic operation: the query starts and runs until it ends or is pre-empted (R47 c). -/
def beginQuery (k : QueryKind) (s : State) : State := runQuery s.sched.slice (startQuery k s.sched) s

/-- The query pre-empted last goes on for up to `n` reads (R169); with none in progress nothing happens. -/
def resumeQuery (n : Nat) (s : State) : State :=
  match s.inflight with
  | [] => s
  | q :: rest => runQuery n q { s with inflight := rest }

/-! ### The pools -/

/-- The marker of a slot (R33). -/
def Pwm.marker (p : Pwm) : Slot → Marker
  | .s3 i => p.pool3[i]
  | .s4 k => p.pool4[k]
  | .s6 j => p.pool6[j]

/-- `slot <- m` (R45). -/
def Pwm.setMarker (p : Pwm) (x : Slot) (m : Marker) : Pwm :=
  match x with
  | .s3 i => { p with pool3 := p.pool3.set i m }
  | .s4 k => { p with pool4 := p.pool4.set k m }
  | .s6 j => { p with pool6 := p.pool6.set j m }

/-- The first slot of the pool, in index order, whose marker is `Empty` (R120). -/
def Pwm.firstFit (p : Pwm) (T : Topology) : Option Slot :=
  (poolSlots T).find? (fun x => decide (p.marker x = .empty))

/-- `find(T, key)`: the first slot of the pool, in index order, whose marker is `Pin(key)` (R150). -/
def Pwm.find (p : Pwm) (T : Topology) (key : Pin) : Option Slot :=
  (poolSlots T).find? (fun x => decide (p.marker x = .pin key))

/-- Every slot of the list becomes `Taken` (R120). -/
def Pwm.takeAll (p : Pwm) (xs : List Slot) : Pwm := xs.foldl (fun q x => q.setMarker x .taken) p

/-- The marker writes of a successful allocation of `x` (R120). -/
def Pwm.claim (p : Pwm) (x : Slot) (primary : Pin) : Pwm := (p.setMarker x (.pin primary)).takeAll (conf x)

/-- `ALLOC(T, pins)` with primary pin `primary`, the first of `pins` (R120, R126): refused in `Run`, before the pool is
scanned (R168). -/
def allocate (T : Topology) (primary : Pin) (pins : List Pin) (s : State) : Host.Outcome State Fault Refusal :=
  match s.pwm.phase with
  | .run => .refused .allocationAfterSeal
  | .setup =>
    match s.pwm.firstFit T with
    | none => .next (s.answer .allocationFailure)
    | some x => .next ((s.setPwm (s.pwm.claim x primary)).answer (.slot (slotHandle x pins)))

/-! ### The PWM registers -/

/-- `unit[u].tmr[t]` (R37). -/
def Pwm.subTimer (p : Pwm) (u : UnitId) (t : TmrId) : SubTimer := p.units[u].tmr[t]

/-- `unit[u].tmr[t].duty[X]` (R37). -/
def SubTimer.duty (t : SubTimer) : Operator → Rat
  | .A => t.dutyA
  | .B => t.dutyB

/-- `duty[X] <- v`. -/
def SubTimer.setDuty (t : SubTimer) (X : Operator) (v : Rat) : SubTimer :=
  match X with
  | .A => { t with dutyA := v }
  | .B => { t with dutyB := v }

/-- The unit `u` becomes `w`. -/
def Pwm.setUnit (p : Pwm) (u : UnitId) (w : PwmUnit) : Pwm := { p with units := p.units.set u w }

/-- The duty register behind an output line gets the percentage `v` (R152 to R154). -/
def Pwm.setRoute (p : Pwm) (r : Route) (v : Rat) : Pwm :=
  p.setUnit r.unit
    { p.units[r.unit] with tmr := p.units[r.unit].tmr.set r.tmr ((p.units[r.unit].tmr[r.tmr]).setDuty r.op v) }

/-- The percentages go to their routes, in order. -/
def Pwm.setRoutes (p : Pwm) (ws : List (Route × Rat)) : Pwm := ws.foldl (fun q w => q.setRoute w.1 w.2) p

/-- `mode`, `freq`, `duty_mode` of one sub-timer (R136). -/
def SubTimer.program (t : SubTimer) (fa : Nat) : SubTimer :=
  { t with mode := .upDown, freq := fa, dutyMode := .activeHigh }

/-- `dt_mode`, `dt_rise`, `dt_fall` of one sub-timer (R140). -/
def SubTimer.setDeadTime (t : SubTimer) (dt : Rat) : SubTimer :=
  { t with dtMode := .complementary, dtRise := dt, dtFall := dt }

/-- The dead-time part of `CONFIG`: only with a dead zone (R136, R140). -/
def SubTimer.applyDeadZone (t : SubTimer) (fa : Nat) (dz : DeadZone) : SubTimer :=
  match dz with
  | .absent => t
  | .frac z => t.setDeadTime (deadTime fa z)

/-- The unit after `CONFIG` with applied frequency `fa`: the same settings on all three sub-timers, then the
synchronisation pulse (R136, R141). -/
def PwmUnit.configure (w : PwmUnit) (fa : Nat) (dz : DeadZone) : PwmUnit :=
  { tmr := w.tmr.map (fun t => (t.program fa).applyDeadZone fa dz), aligned := true }

/-- `CONFIG(T, u, req, dz)` (R136); `dz` is absent for the topologies without a dead zone. -/
def configure (T : Topology) (u : UnitId) (req : FreqReq) (dz : DeadZone) (s : State) : State :=
  (s.setPwm (s.pwm.setUnit u (s.pwm.units[u].configure (normalise s.params T req) dz))).answer .nothing

/-- `WRITE(T, key, duties)`: the duties, as percentages, go to the routes of the slot found, in order; a miss writes
nothing and reports nothing (R150, R155). -/
def writeDuties (T : Topology) (key : Pin) (duties : List Rat) (s : State) : State :=
  match s.pwm.find T key with
  | none => s.answer .nothing
  | some x => (s.setPwm (s.pwm.setRoutes ((slotRoutes x).zip (duties.map pct)))).answer .nothing

end Sys2Proof.Machine
end

