-- ==== Sys2Proof/Machine/DutyWriter.lean ====
section
/-! DEFINITION. The Duty-Cycle Writer: `WRITE3`, `WRITE4`, `WRITE6` (spec/45_duty_writer.md). The duties are listed in the order of
the routes of R121 they go to. -/

namespace Sys2Proof.Machine

/-- `WRITE3`: one duty per sub-timer, on the slot's operator (R152). -/
def execWrite3 (key : Pin) (dA dB dC : Rat) (s : State) : Host.Outcome State Fault Refusal :=
  .next (writeDuties .threePhase key [dA, dB, dC] s)

/-- `WRITE4`: 1A and 1B to operator A, 2A and 2B to operator B, of sub-timers 0 and 1 (R153). -/
def execWrite4 (key : Pin) (d1A d1B d2A d2B : Rat) (s : State) : Host.Outcome State Fault Refusal :=
  .next (writeDuties .stepper key [d1A, d1B, d2A, d2B] s)

/-- `WRITE6`: each duty to both operators of its phase's sub-timer (R154). -/
def execWrite6 (key : Pin) (dA dB dC : Rat) (s : State) : Host.Outcome State Fault Refusal :=
  .next (writeDuties .sixPhase key [dA, dA, dB, dB, dC, dC] s)

end Sys2Proof.Machine
end

