-- ==== Sys2Proof/Machine/HallEdges.lean ====
section
/-! DEFINITION. The three edge operations (spec/41_hall_fsm.md rules R92, R101 to R103): the interrupts of the block, each one
atomic pass. -/

namespace Sys2Proof.Machine

/-- `EDGE_A` (R101). -/
def execEdgeA (lvl : Level) (now : Time) (s : State) : Host.Outcome State Fault Refusal := .next (edgePass .a lvl now s)

/-- `EDGE_B` (R102). -/
def execEdgeB (lvl : Level) (now : Time) (s : State) : Host.Outcome State Fault Refusal := .next (edgePass .b lvl now s)

/-- `EDGE_C` (R103). -/
def execEdgeC (lvl : Level) (now : Time) (s : State) : Host.Outcome State Fault Refusal := .next (edgePass .c lvl now s)

end Sys2Proof.Machine
end

