-- ==== Sys2Proof/Machine/HallQueries.lean ====
section
/-! DEFINITION. The Hall queries, the capability flags, zeroing, and the raw field reads (spec/42_hall_angle_velocity.md). -/

namespace Sys2Proof.Machine

/-- `GET_ANGLE`: two atomic reads, `rot` and `sector`, in an open order (R106). -/
def execGetAngle (s : State) : Host.Outcome State Fault Refusal := .next (beginQuery .angle s)

/-- `GET_VELOCITY`: three atomic reads, `ivl`, `ts`, `dir`, in an open order (R107). -/
def execGetVelocity (now : Time) (s : State) : Host.Outcome State Fault Refusal := .next (beginQuery (.velocity now) s)

/-- `NEEDS_ZERO_SEARCH`: the constant 0 (R108). -/
def execNeedsZeroSearch (s : State) : Host.Outcome State Fault Refusal := .next (s.answer (.flag false))

/-- `HAS_ABS_ZERO`: the constant 1 (R109). -/
def execHasAbsZero (s : State) : Host.Outcome State Fault Refusal := .next (s.answer (.flag true))

/-- `ZERO_REL`: `rot <- 0` and nothing else (R110). -/
def execZeroRel (s : State) : Host.Outcome State Fault Refusal :=
  .next ((s.setHall { s.hall with rot := 0 }).answer .nothing)

/-- `ZERO_ABS`: minus the angle, by the same two reads as `GET_ANGLE`; no register is written (R111). -/
def execZeroAbs (s : State) : Host.Outcome State Fault Refusal := .next (beginQuery .minusAngle s)

/-- `RD_LEVELS` (R112). -/
def execRdLevels (s : State) : Host.Outcome State Fault Refusal := .next (s.answer (.levels s.hall.code))

/-- `RD_RAW` (R113). -/
def execRdRaw (s : State) : Host.Outcome State Fault Refusal := .next (s.answer (.raw s.hall.raw))

/-- `RD_SECTOR` (R114). -/
def execRdSector (s : State) : Host.Outcome State Fault Refusal := .next (s.answer (.sector s.hall.sector))

/-- `RD_DIR` (R115). -/
def execRdDir (s : State) : Host.Outcome State Fault Refusal := .next (s.answer (.dir s.hall.dir))

/-- `RD_ROT` (R116). -/
def execRdRot (s : State) : Host.Outcome State Fault Refusal := .next (s.answer (.rot s.hall.rot))

/-- `RD_TS` (R117). -/
def execRdTs (s : State) : Host.Outcome State Fault Refusal := .next (s.answer (.ts s.hall.ts))

/-- `RD_IVL` (R118). -/
def execRdIvl (s : State) : Host.Outcome State Fault Refusal := .next (s.answer (.ivl s.hall.ivl))

/-- `RD_EDGES` (R119). -/
def execRdEdges (s : State) : Host.Outcome State Fault Refusal := .next (s.answer (.edges s.hall.edges))

end Sys2Proof.Machine
end

