-- ==== Sys2Proof/Machine/HallSetup.lean ====
section
/-! DEFINITION. The Hall setup operations: `HALL_INIT`, `IRQ_ATTACH_x`, `CB_ATTACH`, `CB_DETACH`
(spec/41_hall_fsm.md section 2). -/

namespace Sys2Proof.Machine

/-- `HALL_INIT` (R90): `dir`, `cb_en`, `irq_en_x` are not written. -/
def execHallInit (a b c : Level) (now : Time) (s : State) : Host.Outcome State Fault Refusal :=
  .next ((s.setHall (s.hall.init a b c now)).answer .nothing)

/-- `CB_ATTACH` (R99). -/
def execCbAttach (s : State) : Host.Outcome State Fault Refusal :=
  .next ((s.setHall { s.hall with cbEn := true }).answer .nothing)

/-- `CB_DETACH` (R100). -/
def execCbDetach (s : State) : Host.Outcome State Fault Refusal :=
  .next ((s.setHall { s.hall with cbEn := false }).answer .nothing)

/-- `IRQ_ATTACH_A` (R91). -/
def execIrqAttachA (s : State) : Host.Outcome State Fault Refusal :=
  .next ((s.setHall (s.hall.attach .a)).answer .nothing)

/-- `IRQ_ATTACH_B` (R88). -/
def execIrqAttachB (s : State) : Host.Outcome State Fault Refusal :=
  .next ((s.setHall (s.hall.attach .b)).answer .nothing)

/-- `IRQ_ATTACH_C` (R89). -/
def execIrqAttachC (s : State) : Host.Outcome State Fault Refusal :=
  .next ((s.setHall (s.hall.attach .c)).answer .nothing)

end Sys2Proof.Machine
end

