-- ==== Sys2Proof/Machine/SectorTable.lean ====
section
/-! DEFINITION. The Sector Table operation `SECT` (spec/40_sector_table.md rule R80). -/

namespace Sys2Proof.Machine

/-- `SECT`: the table entry; no register is read or written (R80). -/
def execSect (r : Raw) (s : State) : Host.Outcome State Fault Refusal := .next (s.answer (.sectorOrInvalid (rom r)))

end Sys2Proof.Machine
end

