-- ==== Sys2Proof/Machine/SlotRegistry.lean ====
section
/-! DEFINITION. The Slot Registry: `ALLOC3`, `ALLOC4`, `ALLOC6`, `SEAL` (spec/43_slot_registry.md). The primary pin is the
first of the request (R120). -/

namespace Sys2Proof.Machine

/-- `ALLOC3` (R123). -/
def execAlloc3 (pinA pinB pinC : Pin) (s : State) : Host.Outcome State Fault Refusal :=
  allocate .threePhase pinA [pinA, pinB, pinC] s

/-- `ALLOC4` (R124). -/
def execAlloc4 (pin1A pin1B pin2A pin2B : Pin) (s : State) : Host.Outcome State Fault Refusal :=
  allocate .stepper pin1A [pin1A, pin1B, pin2A, pin2B] s

/-- `ALLOC6` (R125). -/
def execAlloc6 (pinAH pinAL pinBH pinBL pinCH pinCL : Pin) (s : State) : Host.Outcome State Fault Refusal :=
  allocate .sixPhase pinAH [pinAH, pinAL, pinBH, pinBL, pinCH, pinCL] s

/-- `SEAL`: `phase <- Run` (R128). -/
def execSeal (s : State) : Host.Outcome State Fault Refusal :=
  .next ((s.setPwm { s.pwm with phase := .run }).answer .nothing)

end Sys2Proof.Machine
end

