-- ==== Sys2Proof/Machine/TimerConfig.lean ====
section
/-! DEFINITION. The Timer Configurator: `CONFIG3`, `CONFIG4`, `CONFIG6` (spec/44_timer_configurator.md). Accepted in either phase;
the pools are not consulted (R136). -/

namespace Sys2Proof.Machine

/-- `CONFIG3` (R137). -/
def execConfig3 (u : UnitId) (req : FreqReq) (s : State) : Host.Outcome State Fault Refusal :=
  .next (configure .threePhase u req .absent s)

/-- `CONFIG4` (R138). -/
def execConfig4 (u : UnitId) (req : FreqReq) (s : State) : Host.Outcome State Fault Refusal :=
  .next (configure .stepper u req .absent s)

/-- `CONFIG6` (R139). -/
def execConfig6 (u : UnitId) (req : FreqReq) (dz : DeadZone) (s : State) : Host.Outcome State Fault Refusal :=
  .next (configure .sixPhase u req dz s)

end Sys2Proof.Machine
end

