-- ==== Sys2Proof/Machine/Dispatch.lean ====
section
/-! DEFINITION. The dispatch of the 34 operations to their meanings, in the order of spec/30_encoding.md rule R64. -/

namespace Sys2Proof.Machine

def exec (i : Instr) (s : State) : Host.Outcome State Fault Refusal :=
  match i with
  | .sect r => Sys2Proof.Machine.execSect r s
  | .hallInit a b c now => Sys2Proof.Machine.execHallInit a b c now s
  | .cbAttach => Sys2Proof.Machine.execCbAttach s
  | .cbDetach => Sys2Proof.Machine.execCbDetach s
  | .irqAttachA => Sys2Proof.Machine.execIrqAttachA s
  | .irqAttachB => Sys2Proof.Machine.execIrqAttachB s
  | .irqAttachC => Sys2Proof.Machine.execIrqAttachC s
  | .edgeA lvl now => Sys2Proof.Machine.execEdgeA lvl now s
  | .edgeB lvl now => Sys2Proof.Machine.execEdgeB lvl now s
  | .edgeC lvl now => Sys2Proof.Machine.execEdgeC lvl now s
  | .getAngle => Sys2Proof.Machine.execGetAngle s
  | .getVelocity now => Sys2Proof.Machine.execGetVelocity now s
  | .needsZeroSearch => Sys2Proof.Machine.execNeedsZeroSearch s
  | .hasAbsZero => Sys2Proof.Machine.execHasAbsZero s
  | .zeroRel => Sys2Proof.Machine.execZeroRel s
  | .zeroAbs => Sys2Proof.Machine.execZeroAbs s
  | .rdLevels => Sys2Proof.Machine.execRdLevels s
  | .rdRaw => Sys2Proof.Machine.execRdRaw s
  | .rdSector => Sys2Proof.Machine.execRdSector s
  | .rdDir => Sys2Proof.Machine.execRdDir s
  | .rdRot => Sys2Proof.Machine.execRdRot s
  | .rdTs => Sys2Proof.Machine.execRdTs s
  | .rdIvl => Sys2Proof.Machine.execRdIvl s
  | .rdEdges => Sys2Proof.Machine.execRdEdges s
  | .alloc3 pinA pinB pinC => Sys2Proof.Machine.execAlloc3 pinA pinB pinC s
  | .alloc4 pin1A pin1B pin2A pin2B => Sys2Proof.Machine.execAlloc4 pin1A pin1B pin2A pin2B s
  | .alloc6 pinAH pinAL pinBH pinBL pinCH pinCL => Sys2Proof.Machine.execAlloc6 pinAH pinAL pinBH pinBL pinCH pinCL s
  | .sealSlots => Sys2Proof.Machine.execSeal s
  | .config3 u req => Sys2Proof.Machine.execConfig3 u req s
  | .config4 u req => Sys2Proof.Machine.execConfig4 u req s
  | .config6 u req dz => Sys2Proof.Machine.execConfig6 u req dz s
  | .write3 key dA dB dC => Sys2Proof.Machine.execWrite3 key dA dB dC s
  | .write4 key d1A d1B d2A d2B => Sys2Proof.Machine.execWrite4 key d1A d1B d2A d2B s
  | .write6 key dA dB dC => Sys2Proof.Machine.execWrite6 key dA dB dC s

end Sys2Proof.Machine
end

