-- ==== Sys2Proof/Machine/Step.lean ====
section
/-! DEFINITION. One step: what the environment presents next is taken, and carried out (spec/10_state.md rule R38,
spec/60_exceptions.md rules R164, R168, R169). There is no program counter and no fetch from memory (R38); the next
command is the head of `inputs` (log 1). -/

namespace Sys2Proof.Machine

/-- The refusal a decoding error is reported as (R164, U11). -/
def refusalOf : DecodeError → Refusal
  | .reservedCode code => .reservedCode code
  | .unitOutOfRange u => .unitOutOfRange u
  | .negativePin p => .negativePin p

/-- One step. Nothing presented: the block idles. A command: its operation is executed, under the environment's
schedule, or refused. A resumption: the pre-empted query goes on. -/
def step (s : State) : Host.Outcome State Fault Refusal :=
  match s.inputs with
  | [] => .next s
  | .resume slice :: rest => .next (resumeQuery slice { s with inputs := rest })
  | .command c sched :: rest =>
    match decode c with
    | .ok i => exec i { s with inputs := rest, sched := sched }
    | .error e => .refused (refusalOf e)

/-- `s` with the command of the table word `w` presented next, its operand ports at zero, not pre-empted. -/
def State.withFetchWord (s : State) (nbits w : Nat) : State :=
  { s with inputs := .command (Command.ofTableWord nbits w) Sched.unhurried :: s.inputs }

end Sys2Proof.Machine
end

