-- ==== Sys2Proof/Safety.lean ====
section
/-! DEFINITION. What counts as a well-formed state, who may issue what, and the boot orders: the terms the claims use
(spec/10_state.md rules R32, R35; spec/43_slot_registry.md rule R129; spec/60_exceptions.md rules R172 to R174;
spec/70_reset_and_hazards.md rules R186, R187). The block enforces none of the agents' duties (log 17). -/

namespace Sys2Proof

open Machine

/-! ### Agents -/

/-- The three agents (R172, R173, R174). -/
inductive Agent where
  | setup | edge | loop
deriving DecidableEq, Repr

/-- The edge operations (R172). -/
def isEdge : Instr → Bool
  | .edgeA _ _ | .edgeB _ _ | .edgeC _ _ => true
  | .sect _ | .hallInit _ _ _ _ | .cbAttach | .cbDetach | .irqAttachA | .irqAttachB | .irqAttachC | .getAngle
  | .getVelocity _ | .needsZeroSearch | .hasAbsZero | .zeroRel | .zeroAbs | .rdLevels | .rdRaw | .rdSector | .rdDir
  | .rdRot | .rdTs | .rdIvl | .rdEdges | .alloc3 _ _ _ | .alloc4 _ _ _ _ | .alloc6 _ _ _ _ _ _ | .sealSlots
  | .config3 _ _ | .config4 _ _ | .config6 _ _ _ | .write3 _ _ _ _ | .write4 _ _ _ _ _ | .write6 _ _ _ _ => false

/-- The allocations (R174). -/
def isAlloc : Instr → Bool
  | .alloc3 _ _ _ | .alloc4 _ _ _ _ | .alloc6 _ _ _ _ _ _ => true
  | .sect _ | .hallInit _ _ _ _ | .cbAttach | .cbDetach | .irqAttachA | .irqAttachB | .irqAttachC | .edgeA _ _
  | .edgeB _ _ | .edgeC _ _ | .getAngle | .getVelocity _ | .needsZeroSearch | .hasAbsZero | .zeroRel | .zeroAbs
  | .rdLevels | .rdRaw | .rdSector | .rdDir | .rdRot | .rdTs | .rdIvl | .rdEdges | .sealSlots
  | .config3 _ _ | .config4 _ _ | .config6 _ _ _ | .write3 _ _ _ _ | .write4 _ _ _ _ _ | .write6 _ _ _ _ => false

/-- The operations of the PWM half; the others are the Hall half's (R2, R43). -/
def isPwmOp : Instr → Bool
  | .alloc3 _ _ _ | .alloc4 _ _ _ _ | .alloc6 _ _ _ _ _ _ | .sealSlots | .config3 _ _ | .config4 _ _ | .config6 _ _ _
  | .write3 _ _ _ _ | .write4 _ _ _ _ _ | .write6 _ _ _ _ => true
  | .sect _ | .hallInit _ _ _ _ | .cbAttach | .cbDetach | .irqAttachA | .irqAttachB | .irqAttachC | .edgeA _ _
  | .edgeB _ _ | .edgeC _ _ | .getAngle | .getVelocity _ | .needsZeroSearch | .hasAbsZero | .zeroRel | .zeroAbs
  | .rdLevels | .rdRaw | .rdSector | .rdDir | .rdRot | .rdTs | .rdIvl | .rdEdges => false

/-- The operations the control loop issues (R173); `SECT` may be issued in any context (R80). -/
def loopMayIssue : Instr → Bool
  | .sect _ | .cbAttach | .cbDetach | .getAngle | .getVelocity _ | .needsZeroSearch | .hasAbsZero | .zeroRel | .zeroAbs
  | .rdLevels | .rdRaw | .rdSector | .rdDir | .rdRot | .rdTs | .rdIvl | .rdEdges
  | .write3 _ _ _ _ | .write4 _ _ _ _ _ | .write6 _ _ _ _ => true
  | .hallInit _ _ _ _ | .irqAttachA | .irqAttachB | .irqAttachC | .edgeA _ _ | .edgeB _ _ | .edgeC _ _
  | .alloc3 _ _ _ | .alloc4 _ _ _ _ | .alloc6 _ _ _ _ _ _ | .sealSlots | .config3 _ _ | .config4 _ _
  | .config6 _ _ _ => false

/-- Who may issue an operation (R172, R173, R174). -/
def mayIssue : Agent → Instr → Bool
  | .edge, i => isEdge i
  | .loop, i => loopMayIssue i
  | .setup, i => !isEdge i

/-! ### Boot orders -/

/-- The phase after an operation of a boot sequence (R128). -/
def phaseAfter (ph : Phase) : Instr → Phase
  | .sealSlots => .run
  | _ => ph

/-- No allocation after `SEAL` (R187, R202), for a sequence of operations issued from phase `ph`. -/
def allocsBeforeSeal : Phase → List Instr → Bool
  | _, [] => true
  | ph, i :: is => (!isAlloc i || decide (ph = .setup)) && allocsBeforeSeal (phaseAfter ph i) is

/-! ### Pseudo-operations: fixed expansions (R74) -/

/-- `IRQ_ATTACH_ALL`. -/
def irqAttachAll : List Instr := [.irqAttachA, .irqAttachB, .irqAttachC]

/-- `HALL_SETUP a, b, c, now`, the boot order of the Hall half (R186). -/
def hallSetup (a b c : Level) (now : Time) : List Instr := .hallInit a b c now :: irqAttachAll

/-! ### Well-formed states -/

/-- (b), (c), (e) of R32; (a) and (d) are the registers' types. -/
def hallOk (h : Hall) : Bool :=
  decide (h.raw = h.code)
    && decide (rom h.raw = none ∨ rom h.raw = some h.sector)
    && decide (h.prevDir = none ∨ h.prevDir = some h.dir)

/-- The slots of a topology on a unit (R121). -/
def slotsOn (T : Topology) (u : UnitId) : List Slot := (poolSlots T).filter (fun x => decide (slotUnit x = u))

/-- The marker is a `Pin`. -/
def isPin : Marker → Bool
  | .pin _ => true
  | .empty | .taken => false

/-- Every slot of the topology on the unit carries the marker `m`. -/
def allMarked (p : Pwm) (T : Topology) (u : UnitId) (m : Marker) : Bool :=
  (slotsOn T u).all (fun x => decide (p.marker x = m))

/-- The topology holds the unit: one of its slots there is a `Pin`, none is `Taken`. -/
def holds (p : Pwm) (T : Topology) (u : UnitId) : Bool :=
  (slotsOn T u).any (fun x => isPin (p.marker x)) && (slotsOn T u).all (fun x => decide (p.marker x ≠ .taken))

/-- A unit is free, or held by one topology with the slots of the other two `Taken` (R35, R129 a). -/
def unitOk (p : Pwm) (u : UnitId) : Bool :=
  (allMarked p .threePhase u .empty && allMarked p .stepper u .empty && allMarked p .sixPhase u .empty)
    || (holds p .threePhase u && allMarked p .stepper u .taken && allMarked p .sixPhase u .taken)
    || (holds p .stepper u && allMarked p .threePhase u .taken && allMarked p .sixPhase u .taken)
    || (holds p .sixPhase u && allMarked p .threePhase u .taken && allMarked p .stepper u .taken)

/-- The pool invariant (R35, R129). -/
def pwmOk (p : Pwm) : Bool := unitOk p 0 && unitOk p 1

/-- The registers a query reads (R106, R107, R111). -/
def queryRegs : QueryKind → List HallReg
  | .angle => [.rot, .sector]
  | .minusAngle => [.rot, .sector]
  | .velocity _ => [.ivl, .ts, .dir]

/-- A query in progress has a read left to make, and only reads of its kind. -/
def queryOk (q : Query) : Bool :=
  decide (q.todo ≠ []) && q.todo.all (fun r => decide (r ∈ queryRegs q.kind))

/-- What every step keeps, and reset has: the spec's invariants of both halves (R32, R35, R129), queries with something
left to read, and the premises on the parameters (R7). -/
def stateOk (s : State) : Bool :=
  s.params.wf && hallOk s.hall && pwmOk s.pwm && s.inflight.all queryOk

/-- The caller's premise of U6: the primary pins within each pool are pairwise different. -/
def pinsUnique (p : Pwm) : Prop :=
  ∀ x y : Slot, slotTopology x = slotTopology y → isPin (p.marker x) = true → p.marker x = p.marker y → x = y

end Sys2Proof
end

