-- ==== Sys2Proof/Certificates/Slice0/Obligations.lean ====
section
/-! DEFINITION. The statements for the provers: what the operations of HALLPWM and the machine as a whole do, from the
numbered rules of spec/. An operation's statement gives the whole next state, or its fields one by one, so that it says
what the operation leaves unchanged as well. -/

namespace Sys2Proof.Claims

open Sys2Proof Sys2Proof.Machine

/-- `EDGE_x` (R101, R102, R103). -/
def edgeOp : Channel → Level → Time → Instr
  | .a, lvl, now => .edgeA lvl now
  | .b, lvl, now => .edgeB lvl now
  | .c, lvl, now => .edgeC lvl now

/-- `CONFIG3`, `CONFIG4`, `CONFIG6`; the dead zone is the six-phase operation's (R137, R138, R139). -/
def configOp : Topology → UnitId → FreqReq → DeadZone → Instr
  | .threePhase, u, req, _ => .config3 u req
  | .stepper, u, req, _ => .config4 u req
  | .sixPhase, u, req, dz => .config6 u req dz

/-- `4*a + 2*b + c` (R60), as a number. -/
def rawNumber (a b c : Level) : Nat := 4 * a.toNat + 2 * b.toNat + c.toNat

/-- The raw code the levels of `h` assemble to (R60). -/
def levelsCode (h : Hall) : Raw := BitVec.ofNat 3 (rawNumber h.lvlA h.lvlB h.lvlC)

/-- No result, no callback event. -/
def silent : Out := { result := .nothing, event := none }

/-- A result, no callback event. -/
def answers (r : Result) : Out := { result := r, event := none }

/-- The angle of R105, `NAT * (cnt / CPR) * 2*PI` with `CPR = 6*PP`, as a multiple of `PI`. -/
def angleFormula (p : Params) (rot : Rot) (sector : Sector) : Rat :=
  (dirSign p.nat : Rat) * (((6 * rot.toInt + (sector.val : Int) : Int) : Rat) / ((6 * p.polePairs : Nat) : Rat)) * 2

/-- The velocity of R107 as a multiple of `PI`. -/
def velocityFormula (p : Params) (now i t : Time) (d : Dir) : Rat :=
  if i.toNat = 0 then 0
  else if (now - t).toNat > i.toNat then 0
  else (dirSign d : Rat) * 2 * (p.tickHz : Rat) / ((((6 * p.polePairs : Nat) : Rat)) * (i.toNat : Rat))

/-- Nothing outside the PWM half changes but the outputs. -/
def SameHallSide (s t : State) : Prop :=
  t.params = s.params ∧ t.hall = s.hall ∧ t.inflight = s.inflight ∧ t.sched = s.sched ∧ t.inputs = s.inputs

/-- No pool marker changes, and neither does the phase. -/
def SamePools (s t : State) : Prop :=
  t.pwm.pool3 = s.pwm.pool3 ∧ t.pwm.pool4 = s.pwm.pool4 ∧ t.pwm.pool6 = s.pwm.pool6 ∧ t.pwm.phase = s.pwm.phase

/-- Every register of the sub-timer but the duties. -/
def SameButDuties (a b : SubTimer) : Prop :=
  a.mode = b.mode ∧ a.freq = b.freq ∧ a.dutyMode = b.dutyMode ∧ a.dtMode = b.dtMode ∧ a.dtRise = b.dtRise
    ∧ a.dtFall = b.dtFall

/-- After a duty write: nothing outside the duty registers changes, no result, and register `unit[v].tmr[k].duty[X]`
holds `duty v k X`. -/
def WritesDuties (s t : State) (duty : UnitId → TmrId → Operator → Rat) : Prop :=
  SameHallSide s t ∧ SamePools s t ∧ t.out = silent
    ∧ (∀ v : UnitId, (t.pwm.units[v]).aligned = (s.pwm.units[v]).aligned)
    ∧ ∀ (v : UnitId) (k : TmrId), SameButDuties (t.pwm.subTimer v k) (s.pwm.subTimer v k)
        ∧ ∀ X : Operator, (t.pwm.subTimer v k).duty X = duty v k X

/-- The unit number of a three-phase slot, `i div 2` (R122). -/
def unitOf (i : Fin 4) : UnitId := ⟨i.val / 2, by omega⟩

/-- Where a register stands in the read order of a velocity query. -/
def readAt (o : VelocityOrder) (r : HallReg) : Nat := (velocityReads o).idxOf r

/-- What an angle query answers when its reads were made in the states `seen`, in order (R105, R106, R111). -/
def tornAngle (s : State) (k : QueryKind) (p : Params) (seen : List State) : Result :=
  let v := match s.sched.angleOrder with
    | .rotSector => angleFormula p (seen.getD 0 s).hall.rot (seen.getD 1 s).hall.sector
    | .sectorRot => angleFormula p (seen.getD 1 s).hall.rot (seen.getD 0 s).hall.sector
  .angle (if k = .angle then v else -v)

/-- The Hall registers a velocity query finds when it reads `r`, its reads made in the states `seen`, in order. -/
def hallRead (s : State) (seen : List State) (r : HallReg) : Hall :=
  (seen.getD (readAt s.sched.velocityOrder r) s).hall

/-- What a velocity query answers when its reads were made in the states `seen`, in order (R107). -/
def tornVelocity (s : State) (now : Time) (p : Params) (seen : List State) : Result :=
  .velocity (velocityFormula p now (hallRead s seen .ivl).ivl (hallRead s seen .ts).ts (hallRead s seen .dir).dir)

/-- The course of the pre-empted query `q`, with `left` reads to make after those made in the states `seen`, over the
resumptions `(u, n)`: in any state `u` in which `q` is the query pre-empted last, a resumption for `n` reads either makes
the reads left, ends the query and answers `ans` of all the states read in, or makes `n` reads and leaves a query that
goes on in the same way (R47 c, R56). -/
def Resumes (ans : Params → List State → Result) (seen : List State) (left : Nat) (q : Query) :
    List (State × Nat) → Prop
  | [] => True
  | (u, n) :: visits => ∀ (tail : List Query) (ins : List Input), u.inflight = q :: tail → u.inputs = .resume n :: ins →
      if left ≤ n then
        step u = .next { u with
          inflight := tail, inputs := ins, out := answers (ans u.params (seen ++ List.replicate left u)) }
      else ∃ q' : Query, step u = .next { u with inflight := q' :: tail, inputs := ins, out := silent }
        ∧ Resumes ans (seen ++ List.replicate n u) (left - n) q' visits

/-- The course of the query of `total` reads that `i` starts in `s`, under every slice and every list of resumptions. -/
def RunsTorn (i : Instr) (total : Nat) (s : State) (ans : Params → List State → Result) : Prop :=
  if total ≤ s.sched.slice then
    exec i s = .next { s with out := answers (ans s.params (List.replicate total s)) }
  else ∃ q : Query, exec i s = .next { s with inflight := q :: s.inflight, out := silent }
    ∧ ∀ visits : List (State × Nat),
        Resumes ans (List.replicate s.sched.slice s) (total - s.sched.slice) q visits

/-- The number of `Pin` markers of a topology on a unit. -/
def pinsOn (p : Pwm) (T : Topology) (u : UnitId) : Nat := (slotsOn T u).countP (fun x => isPin (p.marker x))

/-- The operation is a `HALL_INIT`. -/
def isHallInit (i : Instr) : Prop := ∃ (a b c : Level) (now : Time), i = .hallInit a b c now

/-- The command codes of R64. -/
def assignedCodes : List Byte :=
  [0x00, 0x10, 0x11, 0x12, 0x14, 0x15, 0x16, 0x18, 0x19, 0x1A, 0x20, 0x21, 0x22, 0x23, 0x24, 0x25, 0x28, 0x29, 0x2A,
   0x2B, 0x2C, 0x2D, 0x2E, 0x2F, 0x30, 0x31, 0x32, 0x3F, 0x40, 0x41, 0x42, 0x50, 0x51, 0x52]

/-- The codes with a `unit` operand (R137 to R139). -/
def unitCodes : List Byte := [0x40, 0x41, 0x42]

/-- The pin operands of a command code, on their ports, in the order of its rule (R123 to R125, R152 to R154). -/
def pinOperands (code : Byte) (p : Ports) : List Int :=
  if code = 0x30 then [p.pin0, p.pin1, p.pin2]
  else if code = 0x31 then [p.pin0, p.pin1, p.pin2, p.pin3]
  else if code = 0x32 then [p.pin0, p.pin1, p.pin2, p.pin3, p.pin4, p.pin5]
  else if code ∈ ([0x50, 0x51, 0x52] : List Byte) then [p.key]
  else []

/-- The state in which the environment presents the operations `is`, each run without pre-emption. -/
def presenting (s : State) (is : List Instr) : State :=
  { s with inputs := is.map (fun i => .command (encode i) Sched.unhurried) }

end Sys2Proof.Claims

open Sys2Proof Sys2Proof.Machine Sys2Proof.Claims

/-! ### Decoding and the step -/

/-- Every operation, with every operand, is read back from the command that presents it (R62, R64, R65). -/
def Obligations.DecodeOfEncode : Prop := ∀ i : Instr, decode (encode i) = .ok i

/-- A command is refused as reserved exactly when its code is not one of the 34 of R64 (R72 b, U10). -/
def Obligations.ReservedCodesRefused : Prop :=
  ∀ c : Command, decode c = .error (.reservedCode c.code) ↔ c.code ∉ assignedCodes

/-- A command that decodes carries the code of the operation it decodes to: no two rows share a code (R64). -/
def Obligations.DecodedCodeIsTheOperations : Prop :=
  ∀ (c : Command) (i : Instr), decode c = .ok i → c.code = i.code

/-- A few command words, written out from R62 to R66, decode to their operations. -/
def Obligations.WordsDecode : Prop :=
  decode { code := 0b00000000#8, ports := { Ports.idle with r := 4 } } = .ok (.sect 4)
    ∧ decode { code := 0b00011001#8, ports := { Ports.idle with lvl := true, now := 1500 } } = .ok (.edgeB true 1500)
    ∧ decode { code := 0b00101110#8, ports := Ports.idle } = .ok .rdIvl
    ∧ decode { code := 0b00110000#8, ports := { Ports.idle with pin0 := 5, pin1 := 6, pin2 := 7 } } = .ok (.alloc3 5 6 7)
    ∧ decode { code := 0b01000001#8, ports := { Ports.idle with unit := 1, freq := .unset } } = .ok (.config4 1 .unset)
    ∧ decode { code := 0b01010000#8, ports := { Ports.idle with key := 5, d0 := 1 / 2, d1 := 1 / 4 } }
        = .ok (.write3 5 (1 / 2) (1 / 4) 0)

/-- A step on a presented command that decodes to `i` is `exec i`, with the command taken off the presented list and the
environment's schedule in place (the model's own rendering of R38 and R168, logs 1 and 9). -/
def Obligations.StepRunsDecodedOperation : Prop :=
  ∀ (s : State) (c : Command) (sched : Sched) (rest : List Input) (i : Instr),
    s.inputs = .command c sched :: rest → decode c = .ok i →
      step s = exec i { s with inputs := rest, sched := sched }

/-- When a step on a presented command is refused, and under which name: a code outside R64 (R72 b, R164); a `unit` other
than 0 and 1 on a code with a unit operand (R143, U11); a pin operand below 0, the first such one named (U11, log 13).
Every other command decodes to an operation. With nothing presented, and on a resumption with no query in progress,
nothing else happens (the model's own choices, logs 1 and 9). -/
def Obligations.StepRefusesOrIdles : Prop :=
  (∀ (s : State) (c : Command) (sched : Sched) (rest : List Input), s.inputs = .command c sched :: rest →
    (c.code ∉ assignedCodes → step s = .refused (.reservedCode c.code))
    ∧ (c.code ∈ unitCodes → c.ports.unit ≠ 0 → c.ports.unit ≠ 1 → step s = .refused (.unitOutOfRange c.ports.unit))
    ∧ (∀ p : Int, (pinOperands c.code c.ports).find? (fun x => decide (x < 0)) = some p →
        step s = .refused (.negativePin p))
    ∧ (c.code ∈ assignedCodes → (c.code ∈ unitCodes → c.ports.unit = 0 ∨ c.ports.unit = 1) →
        (∀ p ∈ pinOperands c.code c.ports, 0 ≤ p) →
        ∃ i : Instr, decode c = .ok i ∧ step s = exec i { s with inputs := rest, sched := sched }))
  ∧ (∀ s : State, s.inputs = [] → step s = .next s)
  ∧ ∀ (s : State) (n : Nat) (rest : List Input), s.inputs = .resume n :: rest → s.inflight = [] →
      step s = .next { s with inputs := rest }

/-! ### The Sector Table -/

/-- `SECT` answers the table's entry and changes nothing else; the table is the list of R81. -/
def Obligations.SectAnswersTableEntry : Prop :=
  (∀ (s : State) (r : Raw), exec (.sect r) s = .next { s with out := answers (.sectorOrInvalid (rom r)) })
  ∧ (List.range 8).map (fun r => sectorCode (rom (BitVec.ofNat 3 r))) = [-1, 0, 4, 5, 2, 1, 3, -1]

/-- The properties (a) to (e) of R83. -/
def Obligations.SectorTableProperties : Prop :=
  ((∀ r q : Raw, ∀ s : Sector, rom r = some s → rom q = some s → r = q) ∧ ∀ s : Sector, ∃ r : Raw, rom r = some s)
  ∧ (∀ r : Raw, rom r = none ↔ r = 0 ∨ r = 7)
  ∧ (∀ (r : Raw) (s : Sector), rom r = some s → rom (7 - r) = some (s + 3))
  ∧ (∀ (r q : Raw) (s t : Sector), rom r = some s → rom q = some t →
      ((t = s + 1 ∨ s = t + 1) ↔ (r ^^^ q = 1 ∨ r ^^^ q = 2 ∨ r ^^^ q = 4)))
  ∧ [0, 1, 2, 3, 4, 5].map (fun s : Sector => (List.range 8).find? (fun r => rom (BitVec.ofNat 3 r) = some s))
      = [some 1, some 5, some 4, some 6, some 2, some 3]

/-! ### The Hall setup operations -/

/-- `HALL_INIT` (R90), in every state, a valid sample or not. -/
def Obligations.HallInitLoadsRegisters : Prop :=
  ∀ (s : State) (a b c : Level) (now : Time),
    exec (.hallInit a b c now) s = .next { s with
      hall := { s.hall with
        lvlA := a, lvlB := b, lvlC := c
        raw := BitVec.ofNat 3 (rawNumber a b c)
        sector := match rom (BitVec.ofNat 3 (rawNumber a b c)) with
          | some ns => ns
          | none => s.hall.sector
        rot := 0, ivl := 0, ts := now, prevDir := none, edges := 0 }
      out := silent }

/-- With a valid sample, `HALL_INIT` leaves nothing of the earlier `lvl_x`, `raw`, `sector`, `rot`, `ts`, `ivl`, `edges`
and `prev_dir` (R186). -/
def Obligations.HallInitForgetsEarlierRegisters : Prop :=
  ∀ (s t s' t' : State) (a b c : Level) (now : Time),
    rom (BitVec.ofNat 3 (rawNumber a b c)) ≠ none →
    s.hall.dir = t.hall.dir → s.hall.cbEn = t.hall.cbEn → s.hall.irqEnA = t.hall.irqEnA →
    s.hall.irqEnB = t.hall.irqEnB → s.hall.irqEnC = t.hall.irqEnC →
    exec (.hallInit a b c now) s = .next s' → exec (.hallInit a b c now) t = .next t' → s'.hall = t'.hall

/-- `IRQ_ATTACH_x` sets its own bit and changes nothing else (R91, R88, R89). -/
def Obligations.IrqAttachSetsOwnBit : Prop :=
  ∀ s : State,
    exec .irqAttachA s = .next { s with hall := { s.hall with irqEnA := true }, out := silent }
    ∧ exec .irqAttachB s = .next { s with hall := { s.hall with irqEnB := true }, out := silent }
    ∧ exec .irqAttachC s = .next { s with hall := { s.hall with irqEnC := true }, out := silent }

/-- `CB_ATTACH` and `CB_DETACH` write `cb_en` and change nothing else (R99, R100). -/
def Obligations.CallbackBitWritten : Prop :=
  ∀ s : State,
    exec .cbAttach s = .next { s with hall := { s.hall with cbEn := true }, out := silent }
    ∧ exec .cbDetach s = .next { s with hall := { s.hall with cbEn := false }, out := silent }

/-! ### The edge operations -/

/-- An edge operation on each channel, in every state: not attached, it does nothing (R92); attached, it stores the level
and recomputes (R85): with an invalid code only the level and `raw` change (R93), with a valid one steps 2 to 4 are
carried out and the callback event emitted when `cb_en = 1` (R94, R95, R96, R98). -/
def Obligations.EdgePassTransition : Prop :=
  ∀ (s : State) (x : Channel) (lvl : Level) (now : Time),
    (s.hall.attached x = false → exec (edgeOp x lvl now) s = .next { s with out := silent })
    ∧ (s.hall.attached x = true → ∀ h : Hall, h = s.hall.setLevel x lvl →
        (rom (levelsCode h) = none →
          exec (edgeOp x lvl now) s = .next { s with hall := { h with raw := levelsCode h }, out := silent })
        ∧ ∀ (ns : Sector) (delta d : Int) (nd : Dir), rom (levelsCode h) = some ns →
            delta = (ns.val : Int) - (s.hall.sector.val : Int) →
            nd = (if delta > 3 then dirFlip s.params.nat else if delta < -3 then s.params.nat
              else if ns.val > s.hall.sector.val then s.params.nat else dirFlip s.params.nat) →
            d = (if delta > 3 then -dirSign s.params.nat else if delta < -3 then dirSign s.params.nat else 0) →
            exec (edgeOp x lvl now) s = .next { s with
              hall := { h with
                raw := levelsCode h
                rot := BitVec.ofInt 32 (s.hall.rot.toInt + d)
                ivl := if s.hall.prevDir = some nd then now - s.hall.ts else 0
                dir := nd
                prevDir := some nd
                ts := now
                edges := s.hall.edges + 1
                sector := ns }
              out := { result := .nothing, event := if s.hall.cbEn then some ns else none } })

/-- The 36 cells of R97 for `NAT = +1`, rows the old sector: the direction and the change of `rot`; for `NAT = -1` every
sign is the opposite. -/
def Obligations.TransitionTable : Prop :=
  (List.finRange 6).map (fun old => (List.finRange 6).map (fun new =>
      (dirSign (stepDir .pos old new), rotChange .pos old new)))
    = [[(-1, 0), (1, 0), (1, 0), (1, 0), (-1, -1), (-1, -1)],
       [(-1, 0), (-1, 0), (1, 0), (1, 0), (1, 0), (-1, -1)],
       [(-1, 0), (-1, 0), (-1, 0), (1, 0), (1, 0), (1, 0)],
       [(-1, 0), (-1, 0), (-1, 0), (-1, 0), (1, 0), (1, 0)],
       [(1, 1), (-1, 0), (-1, 0), (-1, 0), (-1, 0), (1, 0)],
       [(1, 1), (1, 1), (-1, 0), (-1, 0), (-1, 0), (-1, 0)]]
  ∧ ∀ old new : Sector, dirSign (stepDir .neg old new) = -dirSign (stepDir .pos old new)
      ∧ rotChange .neg old new = -rotChange .pos old new

/-- An edge operation changes `rot` by -1, 0 or +1, modulo its width, and by 0 exactly when the sectors
before and after differ by 3 or less (R32 f, R94). -/
def Obligations.EdgeMovesRotationByOne : Prop :=
  ∀ (s t : State) (x : Channel) (lvl : Level) (now : Time), exec (edgeOp x lvl now) s = .next t →
    ∃ d : Int, (d = -1 ∨ d = 0 ∨ d = 1) ∧ t.hall.rot.toInt = (s.hall.rot.toInt + d).bmod (2 ^ 32)
      ∧ (d = 0 ↔ ((t.hall.sector.val : Int) - (s.hall.sector.val : Int)).natAbs ≤ 3)

/-- An edge with an unchanged level and a valid code counts as a reverse step that moves nothing (R104 a, R194). -/
def Obligations.SpuriousEdgeCountsAsReverse : Prop :=
  ∀ (s : State) (x : Channel) (now : Time),
    hallOk s.hall = true → s.hall.attached x = true → rom s.hall.raw ≠ none →
    exec (edgeOp x (s.hall.level x) now) s = .next { s with
      hall := { s.hall with
        dir := dirFlip s.params.nat
        prevDir := some (dirFlip s.params.nat)
        ivl := if s.hall.prevDir = some (dirFlip s.params.nat) then now - s.hall.ts else 0
        ts := now
        edges := s.hall.edges + 1 }
      out := { result := .nothing, event := if s.hall.cbEn then some s.hall.sector else none } }

/-- Two edges on different attached channels, handled in either order: the same levels and the same `raw`, and the same
`sector` when that `raw` is valid (R52). -/
def Obligations.NearSimultaneousEdgesAgree : Prop :=
  ∀ (s s₁ s₂ t₁ t₂ : State) (x y : Channel) (lx ly : Level) (n m n' m' : Time),
    x ≠ y → s.hall.attached x = true → s.hall.attached y = true →
    exec (edgeOp x lx n) s = .next s₁ → exec (edgeOp y ly m) s₁ = .next s₂ →
    exec (edgeOp y ly m') s = .next t₁ → exec (edgeOp x lx n') t₁ = .next t₂ →
      (∀ z : Channel, s₂.hall.level z = t₂.hall.level z) ∧ s₂.hall.raw = t₂.hall.raw
        ∧ (rom s₂.hall.raw ≠ none → s₂.hall.sector = t₂.hall.sector)

/-- The position count `6*rot + sector` over an adjacent step, away from the ends of `rot` (R105 a, b): one count in the
direction of the step, but for `NAT = -1` across the wrap, where it jumps by eleven against it. -/
def Obligations.PositionCountOnAdjacentStep : Prop :=
  ∀ (s t : State) (x : Channel) (lvl : Level) (now : Time),
    s.hall.attached x = true → rom (levelsCode (s.hall.setLevel x lvl)) ≠ none →
    -(2 ^ 31 : Int) < s.hall.rot.toInt → s.hall.rot.toInt < 2 ^ 31 - 1 →
    exec (edgeOp x lvl now) s = .next t →
      (t.hall.sector = s.hall.sector + 1 →
        positionCount t.hall.rot t.hall.sector = positionCount s.hall.rot s.hall.sector
          + (if s.params.nat = .neg ∧ s.hall.sector = 5 then -11 else 1))
      ∧ (s.hall.sector = t.hall.sector + 1 →
        positionCount t.hall.rot t.hall.sector = positionCount s.hall.rot s.hall.sector
          + (if s.params.nat = .neg ∧ s.hall.sector = 0 then 11 else -1))

/-! ### Queries, zeroing, field reads -/

/-- `GET_ANGLE` and `ZERO_ABS`, not pre-empted, in either read order: the angle of R105, and its negative; nothing else
changes (R106, R111). -/
def Obligations.AngleQueriesAnswer : Prop :=
  ∀ s : State, 2 ≤ s.sched.slice →
    exec .getAngle s = .next { s with out := answers (.angle (angleFormula s.params s.hall.rot s.hall.sector)) }
    ∧ exec .zeroAbs s = .next { s with out := answers (.angle (-angleFormula s.params s.hall.rot s.hall.sector)) }

/-- `GET_VELOCITY`, not pre-empted, in any read order: the velocity of R107; nothing else changes. -/
def Obligations.VelocityQueryAnswers : Prop :=
  ∀ (s : State) (now : Time), 3 ≤ s.sched.slice →
    exec (.getVelocity now) s = .next { s with
      out := answers (.velocity (velocityFormula s.params now s.hall.ivl s.hall.ts s.hall.dir)) }

/-- Under the premises on the parameters, the reported velocity is non-zero exactly when there is an interval and the
time since the last edge does not exceed it (R107). -/
def Obligations.VelocityNonzeroExactlyWhenFresh : Prop :=
  ∀ (s t : State) (now : Time) (q : Rat), s.params.wf = true → 3 ≤ s.sched.slice →
    exec (.getVelocity now) s = .next t → t.out.result = .velocity q →
      (q ≠ 0 ↔ s.hall.ivl ≠ 0 ∧ (now - s.hall.ts).toNat ≤ s.hall.ivl.toNat)

/-- `GET_ANGLE` and `ZERO_ABS` under every slice and every resumption count, 0 among them: each of the two registers is
read whole, in the state of the step that makes its read, in either read order, and the answer is the angle of R105 of
the two values, or its negative (R47 c, R56, U4; log 9). -/
def Obligations.TornAngleRead : Prop :=
  ∀ (s : State) (k : QueryKind), k = .angle ∨ k = .minusAngle →
    RunsTorn (if k = .angle then .getAngle else .zeroAbs) 2 s (tornAngle s k)

/-- `GET_VELOCITY` under every slice and every resumption count, 0 among them: each of the three registers is read whole,
in the state of the step that makes its read, in each read order, and the answer is the velocity of R107 of the three
values (R47 c, R56, U4; log 9). -/
def Obligations.TornVelocityRead : Prop :=
  ∀ (s : State) (now : Time), RunsTorn (.getVelocity now) 3 s (tornVelocity s now)

/-- The constant answers, in every state (R108, R109). -/
def Obligations.CapabilityFlagsConstant : Prop :=
  ∀ s : State, exec .needsZeroSearch s = .next { s with out := answers (.flag false) }
    ∧ exec .hasAbsZero s = .next { s with out := answers (.flag true) }

/-- `ZERO_REL` clears `rot` and nothing else, and gives no result (R110). -/
def Obligations.ZeroRelClearsRotation : Prop :=
  ∀ s : State, exec .zeroRel s = .next { s with hall := { s.hall with rot := 0 }, out := silent }

/-- Each field read answers its register and changes nothing else (R112 to R119). -/
def Obligations.FieldReadsAnswerRegisters : Prop :=
  ∀ s : State,
    exec .rdLevels s = .next { s with out := answers (.levels (levelsCode s.hall)) }
    ∧ exec .rdRaw s = .next { s with out := answers (.raw s.hall.raw) }
    ∧ exec .rdSector s = .next { s with out := answers (.sector s.hall.sector) }
    ∧ exec .rdDir s = .next { s with out := answers (.dir s.hall.dir) }
    ∧ exec .rdRot s = .next { s with out := answers (.rot s.hall.rot) }
    ∧ exec .rdTs s = .next { s with out := answers (.ts s.hall.ts) }
    ∧ exec .rdIvl s = .next { s with out := answers (.ivl s.hall.ivl) }
    ∧ exec .rdEdges s = .next { s with out := answers (.edges s.hall.edges) }

/-! ### The Slot Registry -/

/-- `ALLOC3`: refused in `Run`; in the setup phase it fails with no change when no marker of `pool3` is `Empty`, and else
takes the first `Empty` slot `i`, writes the primary pin there and `Taken` to `pool4[i div 2]` and `pool6[i div 2]`, and
answers the slot's handle; nothing else changes (R120, R123, R127). -/
def Obligations.AllocThreePhaseFirstFit : Prop :=
  ∀ (s : State) (pinA pinB pinC : Pin),
    (s.pwm.phase = .run → exec (.alloc3 pinA pinB pinC) s = .refused .allocationAfterSeal)
    ∧ (s.pwm.phase = .setup → (∀ i : Fin 4, s.pwm.pool3[i] ≠ .empty) →
      exec (.alloc3 pinA pinB pinC) s = .next { s with out := answers .allocationFailure })
    ∧ ∀ (i : Fin 4) (X : Operator),
      s.pwm.phase = .setup → s.pwm.pool3[i] = .empty → (∀ j : Fin 4, j < i → s.pwm.pool3[j] ≠ .empty) →
      X = (if i.val % 2 = 0 then .A else .B) →
      exec (.alloc3 pinA pinB pinC) s = .next { s with
        pwm := { s.pwm with
          pool3 := s.pwm.pool3.set i (.pin pinA)
          pool4 := s.pwm.pool4.set (unitOf i) .taken
          pool6 := s.pwm.pool6.set (unitOf i) .taken }
        out := answers (.slot ⟨.threePhase, i.val, unitOf i, [X],
          [(pinA, ⟨unitOf i, 0, X⟩), (pinB, ⟨unitOf i, 1, X⟩), (pinC, ⟨unitOf i, 2, X⟩)]⟩) }

/-- `ALLOC4`: refused, failing and claiming in the same way, with the stepper's conflict set and routes (R124, R127). -/
def Obligations.AllocStepperFirstFit : Prop :=
  ∀ (s : State) (pin1A pin1B pin2A pin2B : Pin),
    (s.pwm.phase = .run → exec (.alloc4 pin1A pin1B pin2A pin2B) s = .refused .allocationAfterSeal)
    ∧ (s.pwm.phase = .setup → (∀ k : Fin 2, s.pwm.pool4[k] ≠ .empty) →
      exec (.alloc4 pin1A pin1B pin2A pin2B) s = .next { s with out := answers .allocationFailure })
    ∧ ∀ k : Fin 2,
      s.pwm.phase = .setup → s.pwm.pool4[k] = .empty → (∀ j : Fin 2, j < k → s.pwm.pool4[j] ≠ .empty) →
      exec (.alloc4 pin1A pin1B pin2A pin2B) s = .next { s with
        pwm := { s.pwm with
          pool3 := (s.pwm.pool3.set (2 * k.val) .taken).set (2 * k.val + 1) .taken
          pool4 := s.pwm.pool4.set k (.pin pin1A)
          pool6 := s.pwm.pool6.set k .taken }
        out := answers (.slot ⟨.stepper, k.val, k, [.A, .B],
          [(pin1A, ⟨k, 0, .A⟩), (pin1B, ⟨k, 1, .A⟩), (pin2A, ⟨k, 0, .B⟩), (pin2B, ⟨k, 1, .B⟩)]⟩) }

/-- `ALLOC6`: refused, failing and claiming in the same way, with the six-phase conflict set and routes (R125, R127). -/
def Obligations.AllocSixPhaseFirstFit : Prop :=
  ∀ (s : State) (pinAH pinAL pinBH pinBL pinCH pinCL : Pin),
    (s.pwm.phase = .run → exec (.alloc6 pinAH pinAL pinBH pinBL pinCH pinCL) s = .refused .allocationAfterSeal)
    ∧ (s.pwm.phase = .setup → (∀ j : Fin 2, s.pwm.pool6[j] ≠ .empty) →
      exec (.alloc6 pinAH pinAL pinBH pinBL pinCH pinCL) s = .next { s with out := answers .allocationFailure })
    ∧ ∀ j : Fin 2,
      s.pwm.phase = .setup → s.pwm.pool6[j] = .empty → (∀ l : Fin 2, l < j → s.pwm.pool6[l] ≠ .empty) →
      exec (.alloc6 pinAH pinAL pinBH pinBL pinCH pinCL) s = .next { s with
        pwm := { s.pwm with
          pool3 := (s.pwm.pool3.set (2 * j.val) .taken).set (2 * j.val + 1) .taken
          pool4 := s.pwm.pool4.set j .taken
          pool6 := s.pwm.pool6.set j (.pin pinAH) }
        out := answers (.slot ⟨.sixPhase, j.val, j, [.A, .B],
          [(pinAH, ⟨j, 0, .A⟩), (pinAL, ⟨j, 0, .B⟩), (pinBH, ⟨j, 1, .A⟩), (pinBL, ⟨j, 1, .B⟩),
            (pinCH, ⟨j, 2, .A⟩), (pinCL, ⟨j, 2, .B⟩)]⟩) }

/-- With no `Empty` marker in its pool, an allocation in the setup phase answers `AllocationFailure` and changes nothing
else (R126). -/
def Obligations.AllocFailsOnExhaustedPool : Prop :=
  ∀ s : State, s.pwm.phase = .setup →
    ((∀ i : Fin 4, s.pwm.pool3[i] ≠ .empty) → ∀ a b c : Pin,
      exec (.alloc3 a b c) s = .next { s with out := answers .allocationFailure })
    ∧ ((∀ k : Fin 2, s.pwm.pool4[k] ≠ .empty) → ∀ a b c d : Pin,
      exec (.alloc4 a b c d) s = .next { s with out := answers .allocationFailure })
    ∧ ((∀ j : Fin 2, s.pwm.pool6[j] ≠ .empty) → ∀ a b c d e f : Pin,
      exec (.alloc6 a b c d e f) s = .next { s with out := answers .allocationFailure })

/-- `SEAL` sets `phase` to `Run` and changes nothing else; issued again it changes nothing; after it every allocation is
refused (R128). -/
def Obligations.SealEndsSetup : Prop :=
  (∀ s : State, exec .sealSlots s = .next { s with pwm := { s.pwm with phase := .run }, out := silent })
  ∧ ∀ s t : State, exec .sealSlots s = .next t →
      exec .sealSlots t = .next t
      ∧ (∀ a b c : Pin, exec (.alloc3 a b c) t = .refused .allocationAfterSeal)
      ∧ (∀ a b c d : Pin, exec (.alloc4 a b c d) t = .refused .allocationAfterSeal)
      ∧ ∀ a b c d e f : Pin, exec (.alloc6 a b c d e f) t = .refused .allocationAfterSeal

/-- The table of R174: in each phase every operation is accepted, but an allocation in `Run`, which is refused. -/
def Obligations.AcceptedUnlessAllocAfterSeal : Prop :=
  ∀ (i : Instr) (s : State),
    (isAlloc i = true ∧ s.pwm.phase = .run → exec i s = .refused .allocationAfterSeal)
    ∧ (¬(isAlloc i = true ∧ s.pwm.phase = .run) → ∃ t : State, exec i s = .next t)

/-- A boot that allocates nothing after `SEAL` is never refused: any such sequence of operations, from any state, runs
to its end (R187, R202). -/
def Obligations.OrderedBootIsNeverRefused : Prop :=
  ∀ (is : List Instr) (s : State), allocsBeforeSeal s.pwm.phase is = true →
    ∃ t : State, Host.Core.run Sys2Proof.core is.length (presenting s is) = .next t ∧ t.inputs = []

/-- The conflict sets of R122, written out; they are the slots of the other topologies that share the unit and an operator
in the table of R121; the relation is symmetric. -/
def Obligations.ConflictSetsFromSlotTable : Prop :=
  ((∀ i : Fin 4, conf (.s3 i) = [.s4 (unitOf i), .s6 (unitOf i)])
    ∧ (∀ k : Fin 2, conf (.s4 k) = [.s3 ⟨2 * k.val, by omega⟩, .s3 ⟨2 * k.val + 1, by omega⟩, .s6 k])
    ∧ ∀ j : Fin 2, conf (.s6 j) = [.s3 ⟨2 * j.val, by omega⟩, .s3 ⟨2 * j.val + 1, by omega⟩, .s4 j])
  ∧ (∀ x y : Slot, y ∈ conf x ↔ (slotTopology x ≠ slotTopology y ∧ slotUnit x = slotUnit y
    ∧ ∃ X : Operator, X ∈ slotOperators x ∧ X ∈ slotOperators y))
  ∧ ∀ x y : Slot, y ∈ conf x ↔ x ∈ conf y

/-- In a state that meets the pool invariant, the slots with a `Pin` on one unit belong to one topology (R129 a). -/
def Obligations.UnitHeldByOneTopology : Prop :=
  ∀ (p : Pwm) (x y : Slot), pwmOk p = true → slotUnit x = slotUnit y → isPin (p.marker x) = true →
    isPin (p.marker y) = true → slotTopology x = slotTopology y

/-- In a state that meets the pool invariant, an allocation never overwrites a `Pin` (R129 b). -/
def Obligations.AllocOverwritesNoPin : Prop :=
  ∀ (i : Instr) (s t : State) (x : Slot) (p : Pin), pwmOk s.pwm = true → exec i s = .next t →
    s.pwm.marker x = .pin p → t.pwm.marker x = .pin p

/-- Capacity under the pool invariant (R129 e): per unit at most two three-phase, or one stepper, or one six-phase slot
allocated, and at most four over the block. -/
def Obligations.AllocationCapacity : Prop :=
  ∀ p : Pwm, pwmOk p = true →
    (∀ u : UnitId, pinsOn p .threePhase u ≤ 2 ∧ pinsOn p .stepper u ≤ 1 ∧ pinsOn p .sixPhase u ≤ 1
      ∧ (0 < pinsOn p .stepper u → pinsOn p .threePhase u = 0 ∧ pinsOn p .sixPhase u = 0)
      ∧ (0 < pinsOn p .sixPhase u → pinsOn p .threePhase u = 0 ∧ pinsOn p .stepper u = 0))
    ∧ pinsOn p .threePhase 0 + pinsOn p .stepper 0 + pinsOn p .sixPhase 0
      + (pinsOn p .threePhase 1 + pinsOn p .stepper 1 + pinsOn p .sixPhase 1) ≤ 4

/-- The life of a marker over any step from a state that meets the pool invariant: it stays, or goes from `Empty` to
`Pin` or to `Taken` (R35). -/
def Obligations.MarkerTransitions : Prop :=
  ∀ (s t : State) (x : Slot), pwmOk s.pwm = true → step s = .next t →
    t.pwm.marker x = s.pwm.marker x
      ∨ (s.pwm.marker x = .empty ∧ (t.pwm.marker x = .taken ∨ isPin (t.pwm.marker x) = true))

/-! ### The Timer Configurator -/

/-- `normalise` (R135), and its bound under the premises on the parameters: the applied frequency is at least 1. -/
def Obligations.FrequencyNormalised : Prop :=
  ∀ (p : Params) (T : Topology),
    normalise p T .unset = p.fDefault ∧ normalise p T (.hz 0) = p.fDefault
    ∧ (∀ f : Nat, 1 ≤ f →
        normalise p T (.hz f) = min (2 * f) (if T = .sixPhase then p.fCeil6 else p.fCeil34))
    ∧ (0 < p.fDefault → 0 < p.fCeil6 → p.fCeil6 < p.fCeil34 → ∀ req : FreqReq, 1 ≤ normalise p T req)

/-- `CONFIG3` and `CONFIG4`: the three sub-timers of the unit are programmed alike with the frequency of R135 and the
unit is aligned; duties, dead times, the other unit, the pools and the phase stay (R137, R138, R136, R143). -/
def Obligations.ConfigThreeAndFourProgramUnit : Prop :=
  ∀ (s : State) (u : UnitId) (req : FreqReq) (T : Topology), T = .threePhase ∨ T = .stepper →
    ∃ t : State, exec (if T = .threePhase then .config3 u req else .config4 u req) s = .next t
      ∧ SameHallSide s t ∧ SamePools s t ∧ t.out = silent
      ∧ (t.pwm.units[u]).aligned = true
      ∧ (∀ v : UnitId, v ≠ u → t.pwm.units[v] = s.pwm.units[v])
      ∧ ∀ k : TmrId, t.pwm.subTimer u k = { s.pwm.subTimer u k with
          mode := .upDown, freq := normalise s.params T req, dutyMode := .activeHigh }

/-- `CONFIG6`: the same with the six-phase ceiling, and with a dead zone `z` the dead time `(10^7 / fa) * z` on both
edges of all three sub-timers in complementary mode; without one the dead-time registers stay (R139, R140). -/
def Obligations.ConfigSixProgramsUnitAndDeadTime : Prop :=
  ∀ (s : State) (u : UnitId) (req : FreqReq) (dz : DeadZone),
    ∃ t : State, exec (.config6 u req dz) s = .next t
      ∧ SameHallSide s t ∧ SamePools s t ∧ t.out = silent
      ∧ (t.pwm.units[u]).aligned = true
      ∧ (∀ v : UnitId, v ≠ u → t.pwm.units[v] = s.pwm.units[v])
      ∧ ∀ k : TmrId, t.pwm.subTimer u k = (match dz with
          | .absent => { s.pwm.subTimer u k with
              mode := .upDown, freq := normalise s.params .sixPhase req, dutyMode := .activeHigh }
          | .frac z => { s.pwm.subTimer u k with
              mode := .upDown, freq := normalise s.params .sixPhase req, dutyMode := .activeHigh
              dtMode := .complementary
              dtRise := (10 ^ 7 / (normalise s.params .sixPhase req : Rat)) * z
              dtFall := (10 ^ 7 / (normalise s.params .sixPhase req : Rat)) * z })

/-- The output frequency of a configured sub-timer: the request, when its double does not exceed the topology's ceiling;
half the ceiling above that; half the default with no request (R142). -/
def Obligations.OutputFrequencyIsTheRequest : Prop :=
  ∀ (s t : State) (u : UnitId) (req : FreqReq) (dz : DeadZone) (T : Topology) (k : TmrId) (ceiling : Nat),
    ceiling = (if T = .sixPhase then s.params.fCeil6 else s.params.fCeil34) →
    exec (configOp T u req dz) s = .next t →
      (∀ f : Nat, req = .hz f → 1 ≤ f → 2 * f ≤ ceiling → outputFreq (t.pwm.subTimer u k) = (f : Rat))
      ∧ (∀ f : Nat, req = .hz f → 1 ≤ f → ceiling ≤ 2 * f → outputFreq (t.pwm.subTimer u k) = (ceiling : Rat) / 2)
      ∧ (req = .unset ∨ req = .hz 0 → outputFreq (t.pwm.subTimer u k) = (s.params.fDefault : Rat) / 2)

/-! ### The Duty-Cycle Writer -/

/-- `find` is the slot of least index in the topology's pool that carries `Pin(key)`, or none (R150). -/
def Obligations.FindIsLeastMatch : Prop :=
  ∀ (p : Pwm) (T : Topology) (key : Pin),
    (∀ x : Slot, p.find T key = some x ↔ (slotTopology x = T ∧ p.marker x = .pin key
      ∧ ∀ y : Slot, slotTopology y = T → slotIndex y < slotIndex x → p.marker y ≠ .pin key))
    ∧ (p.find T key = none ↔ ∀ x : Slot, slotTopology x = T → p.marker x ≠ .pin key)

/-- `WRITE3`: on a hit one duty per sub-timer of the slot's unit, on the slot's operator, as a percentage; on a miss
nothing (R152). -/
def Obligations.WriteThreeSetsSlotDuties : Prop :=
  ∀ (s : State) (key : Pin) (dA dB dC : Rat),
    ((∀ i : Fin 4, s.pwm.pool3[i] ≠ .pin key) → exec (.write3 key dA dB dC) s = .next { s with out := silent })
    ∧ ∀ i : Fin 4, s.pwm.pool3[i] = .pin key → (∀ j : Fin 4, j < i → s.pwm.pool3[j] ≠ .pin key) →
      ∃ t : State, exec (.write3 key dA dB dC) s = .next t ∧ WritesDuties s t (fun v k X =>
        if v = unitOf i ∧ X = (if i.val % 2 = 0 then .A else .B) then
          100 * (if k = 0 then dA else if k = 1 then dB else dC)
        else (s.pwm.subTimer v k).duty X)

/-- `WRITE4`: on a hit 1A, 1B to operator A and 2A, 2B to operator B of sub-timers 0 and 1, sub-timer 2 is not written; on
a miss nothing (R153). -/
def Obligations.WriteFourSetsSlotDuties : Prop :=
  ∀ (s : State) (key : Pin) (d1A d1B d2A d2B : Rat),
    ((∀ k : Fin 2, s.pwm.pool4[k] ≠ .pin key) →
      exec (.write4 key d1A d1B d2A d2B) s = .next { s with out := silent })
    ∧ ∀ u : Fin 2, s.pwm.pool4[u] = .pin key → (∀ j : Fin 2, j < u → s.pwm.pool4[j] ≠ .pin key) →
      ∃ t : State, exec (.write4 key d1A d1B d2A d2B) s = .next t ∧ WritesDuties s t (fun v k X =>
        if v = u ∧ k = 0 then 100 * (if X = .A then d1A else d2A)
        else if v = u ∧ k = 1 then 100 * (if X = .A then d1B else d2B)
        else (s.pwm.subTimer v k).duty X)

/-- `WRITE6`: on a hit each duty to both operators of its phase's sub-timer; on a miss nothing (R154). -/
def Obligations.WriteSixSetsSlotDuties : Prop :=
  ∀ (s : State) (key : Pin) (dA dB dC : Rat),
    ((∀ j : Fin 2, s.pwm.pool6[j] ≠ .pin key) → exec (.write6 key dA dB dC) s = .next { s with out := silent })
    ∧ ∀ u : Fin 2, s.pwm.pool6[u] = .pin key → (∀ j : Fin 2, j < u → s.pwm.pool6[j] ≠ .pin key) →
      ∃ t : State, exec (.write6 key dA dB dC) s = .next t ∧ WritesDuties s t (fun v k X =>
        if v = u then 100 * (if k = 0 then dA else if k = 1 then dB else dC)
        else (s.pwm.subTimer v k).duty X)

/-- A duty write whose key no marker of its pool carries writes nothing and reports nothing (R155, R162). -/
def Obligations.WriteMissIsSilent : Prop :=
  ∀ (s : State) (key : Pin) (d₁ d₂ d₃ d₄ : Rat),
    ((∀ i : Fin 4, s.pwm.pool3[i] ≠ .pin key) → exec (.write3 key d₁ d₂ d₃) s = .next { s with out := silent })
    ∧ ((∀ k : Fin 2, s.pwm.pool4[k] ≠ .pin key) → exec (.write4 key d₁ d₂ d₃ d₄) s = .next { s with out := silent })
    ∧ ((∀ j : Fin 2, s.pwm.pool6[j] ≠ .pin key) → exec (.write6 key d₁ d₂ d₃) s = .next { s with out := silent })

/-- Under the pool invariant, two different allocated slots drive disjoint routes (R156 c). -/
def Obligations.AllocatedSlotsHaveDisjointRoutes : Prop :=
  ∀ (p : Pwm) (x y : Slot) (r : Route), pwmOk p = true → x ≠ y → isPin (p.marker x) = true →
    isPin (p.marker y) = true → r ∈ slotRoutes x → r ∉ slotRoutes y

/-- Once `phase = Run`, no step changes it, and every lookup goes on finding what it found (R156 b, R185). -/
def Obligations.LookupsStableAfterSeal : Prop :=
  ∀ (s t : State), s.pwm.phase = .run → step s = .next t →
    t.pwm.phase = .run ∧ ∀ (T : Topology) (key : Pin), t.pwm.find T key = s.pwm.find T key

/-! ### The machine as a whole -/

/-- Every step keeps the invariants of R32 and R35, the queries in progress well-formed, and the premises on the
parameters. -/
def Obligations.StepKeepsStateInvariant : Prop :=
  ∀ s t : State, stateOk s = true → step s = .next t → stateOk t = true

/-- The reset state meets the invariant, with any parameters that meet their premises. -/
def Obligations.ResetMeetsStateInvariant : Prop :=
  (∀ p : Params, p.wf = true → stateOk (State.resetWith p) = true) ∧ stateOk State.reset = true

/-- The two halves share no state (R2): what an operation leaves in one half, and what it answers, is a function of that
half, the parameters and the environment's schedule alone, and an operation of one half does not touch the other. -/
def Obligations.HalvesAreIndependent : Prop :=
  ∀ (i : Instr) (s t s' t' : State), exec i s = .next s' → exec i t = .next t' → s.params = t.params →
    (s.hall = t.hall → s'.hall = t'.hall) ∧ (s.pwm = t.pwm → s'.pwm = t'.pwm)
    ∧ (isPwmOp i = false → s'.pwm = s.pwm ∧ (s.hall = t.hall → s.sched = t.sched → s'.out = t'.out))
    ∧ (isPwmOp i = true → s'.hall = s.hall ∧ s'.inflight = s.inflight ∧ (s.pwm = t.pwm → s'.out = t'.out))

/-- The access matrix of R43, its write entries: which operations may change which register. -/
def Obligations.WriteAccessMatrix : Prop :=
  ∀ (i : Instr) (s t : State), exec i s = .next t →
    (t.hall.lvlA ≠ s.hall.lvlA → isHallInit i ∨ ∃ l n, i = .edgeA l n)
    ∧ (t.hall.lvlB ≠ s.hall.lvlB → isHallInit i ∨ ∃ l n, i = .edgeB l n)
    ∧ (t.hall.lvlC ≠ s.hall.lvlC → isHallInit i ∨ ∃ l n, i = .edgeC l n)
    ∧ (t.hall.raw ≠ s.hall.raw ∨ t.hall.sector ≠ s.hall.sector ∨ t.hall.prevDir ≠ s.hall.prevDir
        ∨ t.hall.ts ≠ s.hall.ts ∨ t.hall.ivl ≠ s.hall.ivl ∨ t.hall.edges ≠ s.hall.edges →
        isHallInit i ∨ isEdge i = true)
    ∧ (t.hall.dir ≠ s.hall.dir → isEdge i = true)
    ∧ (t.hall.rot ≠ s.hall.rot → isHallInit i ∨ isEdge i = true ∨ i = .zeroRel)
    ∧ (t.hall.cbEn ≠ s.hall.cbEn → i = .cbAttach ∨ i = .cbDetach)
    ∧ (t.hall.irqEnA ≠ s.hall.irqEnA → i = .irqAttachA)
    ∧ (t.hall.irqEnB ≠ s.hall.irqEnB → i = .irqAttachB)
    ∧ (t.hall.irqEnC ≠ s.hall.irqEnC → i = .irqAttachC)
    ∧ (t.pwm.pool3 ≠ s.pwm.pool3 ∨ t.pwm.pool4 ≠ s.pwm.pool4 ∨ t.pwm.pool6 ≠ s.pwm.pool6 → isAlloc i = true)
    ∧ (t.pwm.phase ≠ s.pwm.phase → i = .sealSlots)
    ∧ (t.pwm.units ≠ s.pwm.units → isPwmOp i = true ∧ isAlloc i = false ∧ i ≠ .sealSlots)

/-- What no step undoes: the parameters stay (R20), `Run` stays (R36), an attached channel stays attached (R31), and an
aligned unit stays aligned (R141). -/
def Obligations.OneWayStateStays : Prop :=
  ∀ s t : State, step s = .next t →
    t.params = s.params
    ∧ (s.pwm.phase = .run → t.pwm.phase = .run)
    ∧ (∀ x : Channel, s.hall.attached x = true → t.hall.attached x = true)
    ∧ ∀ u : UnitId, (s.pwm.units[u]).aligned = true → (t.pwm.units[u]).aligned = true

/-- The reset values of R42, with any parameters. -/
def Obligations.ResetValues : Prop :=
  ∀ p : Params,
    (State.resetWith p).params = p
    ∧ (State.resetWith p).hall = {
        lvlA := false, lvlB := false, lvlC := false, raw := 0, sector := 0, dir := p.dirReset, prevDir := none,
        rot := 0, ts := 0, ivl := 0, edges := 0, cbEn := false, irqEnA := false, irqEnB := false, irqEnC := false }
    ∧ (∀ x : Slot, (State.resetWith p).pwm.marker x = .empty)
    ∧ (State.resetWith p).pwm.phase = .setup
    ∧ (∀ u : UnitId, ((State.resetWith p).pwm.units[u]).aligned = false)
    ∧ ∀ (u : UnitId) (k : TmrId), (State.resetWith p).pwm.subTimer u k = {
        mode := .off, freq := 0, dutyMode := .unset, dutyA := 0, dutyB := 0, dtMode := .off, dtRise := 0, dtFall := 0 }

/-- What the operations answer in the reset state, with any parameters (R189), as a query that is not pre-empted. -/
def Obligations.AnswersAtReset : Prop :=
  ∀ (p : Params) (s : State), s = State.resetWith p →
    exec .getAngle s = .next { s with out := answers (.angle 0) }
    ∧ (∀ now, exec (.getVelocity now) s = .next { s with out := answers (.velocity 0) })
    ∧ exec .zeroAbs s = .next { s with out := answers (.angle 0) }
    ∧ exec .needsZeroSearch s = .next { s with out := answers (.flag false) }
    ∧ exec .hasAbsZero s = .next { s with out := answers (.flag true) }
    ∧ exec .rdLevels s = .next { s with out := answers (.levels 0) }
    ∧ exec .rdRaw s = .next { s with out := answers (.raw 0) }
    ∧ exec .rdSector s = .next { s with out := answers (.sector 0) }
    ∧ exec .rdRot s = .next { s with out := answers (.rot 0) }
    ∧ exec .rdTs s = .next { s with out := answers (.ts 0) }
    ∧ exec .rdIvl s = .next { s with out := answers (.ivl 0) }
    ∧ exec .rdEdges s = .next { s with out := answers (.edges 0) }
    ∧ exec .rdDir s = .next { s with out := answers (.dir p.dirReset) }
    ∧ (∀ x lvl now, exec (edgeOp x lvl now) s = .next { s with out := silent })
    ∧ (∀ key d₁ d₂ d₃, exec (.write3 key d₁ d₂ d₃) s = .next { s with out := silent })
    ∧ (∀ key d₁ d₂ d₃ d₄, exec (.write4 key d₁ d₂ d₃ d₄) s = .next { s with out := silent })
    ∧ (∀ key d₁ d₂ d₃, exec (.write6 key d₁ d₂ d₃) s = .next { s with out := silent })
    ∧ (∀ a b c, ∃ t h, exec (.alloc3 a b c) s = .next t ∧ t.out.result = .slot h ∧ h.topology = .threePhase
        ∧ h.index = 0)
    ∧ (∀ a b c d, ∃ t h, exec (.alloc4 a b c d) s = .next t ∧ t.out.result = .slot h ∧ h.topology = .stepper
        ∧ h.index = 0)
    ∧ (∀ a b c d e f, ∃ t h, exec (.alloc6 a b c d e f) s = .next t ∧ t.out.result = .slot h
        ∧ h.topology = .sixPhase ∧ h.index = 0)
end

