-- ==== Sys2Proof/Laws/State.lean ====
section
/-! SUPPORT. One lemma per field per update of the state and of its halves, true by unfolding, for `simp`. -/

namespace Sys2Proof.Machine

section updates
variable (s : State) (r : Result) (e : Option Sector) (h : Hall) (p : Pwm)

@[simp] theorem answer_params : (s.answer r).params = s.params := rfl
@[simp] theorem answer_hall : (s.answer r).hall = s.hall := rfl
@[simp] theorem answer_pwm : (s.answer r).pwm = s.pwm := rfl
@[simp] theorem answer_out : (s.answer r).out = { result := r, event := none } := rfl
@[simp] theorem answer_inflight : (s.answer r).inflight = s.inflight := rfl
@[simp] theorem answer_sched : (s.answer r).sched = s.sched := rfl
@[simp] theorem answer_inputs : (s.answer r).inputs = s.inputs := rfl

@[simp] theorem emit_params : (s.emit e).params = s.params := rfl
@[simp] theorem emit_hall : (s.emit e).hall = s.hall := rfl
@[simp] theorem emit_pwm : (s.emit e).pwm = s.pwm := rfl
@[simp] theorem emit_out : (s.emit e).out = { result := .nothing, event := e } := rfl
@[simp] theorem emit_inflight : (s.emit e).inflight = s.inflight := rfl
@[simp] theorem emit_sched : (s.emit e).sched = s.sched := rfl
@[simp] theorem emit_inputs : (s.emit e).inputs = s.inputs := rfl

@[simp] theorem setHall_params : (s.setHall h).params = s.params := rfl
@[simp] theorem setHall_hall : (s.setHall h).hall = h := rfl
@[simp] theorem setHall_pwm : (s.setHall h).pwm = s.pwm := rfl
@[simp] theorem setHall_out : (s.setHall h).out = s.out := rfl
@[simp] theorem setHall_inflight : (s.setHall h).inflight = s.inflight := rfl
@[simp] theorem setHall_sched : (s.setHall h).sched = s.sched := rfl
@[simp] theorem setHall_inputs : (s.setHall h).inputs = s.inputs := rfl

@[simp] theorem setPwm_params : (s.setPwm p).params = s.params := rfl
@[simp] theorem setPwm_hall : (s.setPwm p).hall = s.hall := rfl
@[simp] theorem setPwm_pwm : (s.setPwm p).pwm = p := rfl
@[simp] theorem setPwm_out : (s.setPwm p).out = s.out := rfl
@[simp] theorem setPwm_inflight : (s.setPwm p).inflight = s.inflight := rfl
@[simp] theorem setPwm_sched : (s.setPwm p).sched = s.sched := rfl
@[simp] theorem setPwm_inputs : (s.setPwm p).inputs = s.inputs := rfl

end updates

section hall
variable (h : Hall) (x : Channel) (lvl : Level) (nat : Dir) (ns : Sector) (now : Time) (a b c : Level)

@[simp] theorem transition_lvlA : (h.transition nat ns now).lvlA = h.lvlA := rfl
@[simp] theorem transition_lvlB : (h.transition nat ns now).lvlB = h.lvlB := rfl
@[simp] theorem transition_lvlC : (h.transition nat ns now).lvlC = h.lvlC := rfl
@[simp] theorem transition_raw : (h.transition nat ns now).raw = h.raw := rfl
@[simp] theorem transition_sector : (h.transition nat ns now).sector = ns := rfl
@[simp] theorem transition_dir : (h.transition nat ns now).dir = stepDir nat h.sector ns := rfl
@[simp] theorem transition_prevDir : (h.transition nat ns now).prevDir = some (stepDir nat h.sector ns) := rfl
@[simp] theorem transition_rot : (h.transition nat ns now).rot = wrapRot h.rot (rotChange nat h.sector ns) := rfl
@[simp] theorem transition_ts : (h.transition nat ns now).ts = now := rfl
@[simp] theorem transition_ivl :
    (h.transition nat ns now).ivl = (if h.prevDir = some (stepDir nat h.sector ns) then now - h.ts else 0) := rfl
@[simp] theorem transition_edges : (h.transition nat ns now).edges = h.edges + 1 := rfl
@[simp] theorem transition_cbEn : (h.transition nat ns now).cbEn = h.cbEn := rfl
@[simp] theorem transition_irqEnA : (h.transition nat ns now).irqEnA = h.irqEnA := rfl
@[simp] theorem transition_irqEnB : (h.transition nat ns now).irqEnB = h.irqEnB := rfl
@[simp] theorem transition_irqEnC : (h.transition nat ns now).irqEnC = h.irqEnC := rfl

@[simp] theorem init_lvlA : (h.init a b c now).lvlA = a := rfl
@[simp] theorem init_lvlB : (h.init a b c now).lvlB = b := rfl
@[simp] theorem init_lvlC : (h.init a b c now).lvlC = c := rfl
@[simp] theorem init_raw : (h.init a b c now).raw = rawOf a b c := rfl
@[simp] theorem init_sector : (h.init a b c now).sector = (rom (rawOf a b c)).getD h.sector := rfl
@[simp] theorem init_dir : (h.init a b c now).dir = h.dir := rfl
@[simp] theorem init_prevDir : (h.init a b c now).prevDir = none := rfl
@[simp] theorem init_rot : (h.init a b c now).rot = 0 := rfl
@[simp] theorem init_ts : (h.init a b c now).ts = now := rfl
@[simp] theorem init_ivl : (h.init a b c now).ivl = 0 := rfl
@[simp] theorem init_edges : (h.init a b c now).edges = 0 := rfl
@[simp] theorem init_cbEn : (h.init a b c now).cbEn = h.cbEn := rfl
@[simp] theorem init_irqEnA : (h.init a b c now).irqEnA = h.irqEnA := rfl
@[simp] theorem init_irqEnB : (h.init a b c now).irqEnB = h.irqEnB := rfl
@[simp] theorem init_irqEnC : (h.init a b c now).irqEnC = h.irqEnC := rfl

@[simp] theorem setLevel_raw : (h.setLevel x lvl).raw = h.raw := by cases x <;> rfl
@[simp] theorem setLevel_sector : (h.setLevel x lvl).sector = h.sector := by cases x <;> rfl
@[simp] theorem setLevel_dir : (h.setLevel x lvl).dir = h.dir := by cases x <;> rfl
@[simp] theorem setLevel_prevDir : (h.setLevel x lvl).prevDir = h.prevDir := by cases x <;> rfl
@[simp] theorem setLevel_rot : (h.setLevel x lvl).rot = h.rot := by cases x <;> rfl
@[simp] theorem setLevel_ts : (h.setLevel x lvl).ts = h.ts := by cases x <;> rfl
@[simp] theorem setLevel_ivl : (h.setLevel x lvl).ivl = h.ivl := by cases x <;> rfl
@[simp] theorem setLevel_edges : (h.setLevel x lvl).edges = h.edges := by cases x <;> rfl
@[simp] theorem setLevel_cbEn : (h.setLevel x lvl).cbEn = h.cbEn := by cases x <;> rfl
@[simp] theorem setLevel_irqEnA : (h.setLevel x lvl).irqEnA = h.irqEnA := by cases x <;> rfl
@[simp] theorem setLevel_irqEnB : (h.setLevel x lvl).irqEnB = h.irqEnB := by cases x <;> rfl
@[simp] theorem setLevel_irqEnC : (h.setLevel x lvl).irqEnC = h.irqEnC := by cases x <;> rfl

@[simp] theorem attach_lvlA : (h.attach x).lvlA = h.lvlA := by cases x <;> rfl
@[simp] theorem attach_lvlB : (h.attach x).lvlB = h.lvlB := by cases x <;> rfl
@[simp] theorem attach_lvlC : (h.attach x).lvlC = h.lvlC := by cases x <;> rfl
@[simp] theorem attach_raw : (h.attach x).raw = h.raw := by cases x <;> rfl
@[simp] theorem attach_sector : (h.attach x).sector = h.sector := by cases x <;> rfl
@[simp] theorem attach_dir : (h.attach x).dir = h.dir := by cases x <;> rfl
@[simp] theorem attach_prevDir : (h.attach x).prevDir = h.prevDir := by cases x <;> rfl
@[simp] theorem attach_rot : (h.attach x).rot = h.rot := by cases x <;> rfl
@[simp] theorem attach_ts : (h.attach x).ts = h.ts := by cases x <;> rfl
@[simp] theorem attach_ivl : (h.attach x).ivl = h.ivl := by cases x <;> rfl
@[simp] theorem attach_edges : (h.attach x).edges = h.edges := by cases x <;> rfl
@[simp] theorem attach_cbEn : (h.attach x).cbEn = h.cbEn := by cases x <;> rfl

@[simp] theorem setLevel_level (y : Channel) : (h.setLevel x lvl).level y = if y = x then lvl else h.level y := by
  cases x <;> cases y <;> rfl

@[simp] theorem setLevel_attached (y : Channel) : (h.setLevel x lvl).attached y = h.attached y := by
  cases x <;> cases y <;> rfl

@[simp] theorem attach_attached (y : Channel) : (h.attach x).attached y = (decide (y = x) || h.attached y) := by
  cases x <;> cases y <;> simp [Hall.attach, Hall.attached]

@[simp] theorem attach_level (y : Channel) : (h.attach x).level y = h.level y := by
  cases x <;> cases y <;> rfl

/-- `raw = {lvl_a, lvl_b, lvl_c}` reads the levels only (R60). -/
theorem code_eq : h.code = rawOf (h.level .a) (h.level .b) (h.level .c) := rfl

end hall

section latch
variable (l : Latch) (h : Hall)

@[simp] theorem read_rot : l.read .rot h = { l with rot := h.rot } := rfl
@[simp] theorem read_sector : l.read .sector h = { l with sector := h.sector } := rfl
@[simp] theorem read_ivl : l.read .ivl h = { l with ivl := h.ivl } := rfl
@[simp] theorem read_ts : l.read .ts h = { l with ts := h.ts } := rfl
@[simp] theorem read_dir : l.read .dir h = { l with dir := h.dir } := rfl

end latch

section pwm
variable (p : Pwm) (x y : Slot) (m : Marker) (u v : UnitId) (w : PwmUnit) (r : Route) (q : Rat)

@[simp] theorem setMarker_phase : (p.setMarker x m).phase = p.phase := by cases x <;> rfl
@[simp] theorem setMarker_units : (p.setMarker x m).units = p.units := by cases x <;> rfl

/-- A marker write is read back, and leaves every other marker. -/
@[simp] theorem setMarker_marker : (p.setMarker x m).marker y = if y = x then m else p.marker y := by
  cases x <;> cases y <;> simp [Pwm.setMarker, Pwm.marker, Vector.getElem_set, Fin.ext_iff, eq_comm]

@[simp] theorem setUnit_marker : (p.setUnit u w).marker y = p.marker y := by cases y <;> rfl
@[simp] theorem setUnit_phase : (p.setUnit u w).phase = p.phase := rfl

/-- A unit write is read back, and leaves the other unit. -/
@[simp] theorem setUnit_units : (p.setUnit u w).units[v] = if v = u then w else p.units[v] := by
  simp [Pwm.setUnit, Vector.getElem_set, Fin.ext_iff, eq_comm]

@[simp] theorem setRoute_marker : (p.setRoute r q).marker y = p.marker y := by cases y <;> rfl
@[simp] theorem setRoute_phase : (p.setRoute r q).phase = p.phase := rfl
@[simp] theorem setRoute_aligned : ((p.setRoute r q).units[v]).aligned = (p.units[v]).aligned := by
  simp only [Pwm.setRoute, setUnit_units]; split <;> simp_all

/-- A duty write on one output line: that line's register gets the value, every other register keeps its own. -/
@[simp] theorem setRoute_subTimer (t : TmrId) : (p.setRoute r q).subTimer v t =
    if v = r.unit ∧ t = r.tmr then (p.subTimer v t).setDuty r.op q else p.subTimer v t := by
  simp only [Pwm.subTimer, Pwm.setRoute, setUnit_units]
  by_cases hv : v = r.unit
  · subst hv
    by_cases ht : t = r.tmr
    · subst ht; simp
    · have : r.tmr.val ≠ t.val := fun hh => ht (Fin.ext hh.symm)
      simp [ht, this]
  · simp [hv]

end pwm

section subTimer
variable (t : SubTimer) (X Y : Operator) (q : Rat)

@[simp] theorem setDuty_mode : (t.setDuty X q).mode = t.mode := by cases X <;> rfl
@[simp] theorem setDuty_freq : (t.setDuty X q).freq = t.freq := by cases X <;> rfl
@[simp] theorem setDuty_dutyMode : (t.setDuty X q).dutyMode = t.dutyMode := by cases X <;> rfl
@[simp] theorem setDuty_dtMode : (t.setDuty X q).dtMode = t.dtMode := by cases X <;> rfl
@[simp] theorem setDuty_dtRise : (t.setDuty X q).dtRise = t.dtRise := by cases X <;> rfl
@[simp] theorem setDuty_dtFall : (t.setDuty X q).dtFall = t.dtFall := by cases X <;> rfl
@[simp] theorem setDuty_duty : (t.setDuty X q).duty Y = if Y = X then q else t.duty Y := by
  cases X <;> cases Y <;> rfl

end subTimer

end Sys2Proof.Machine
end

