-- ==== Sys2Proof/Laws/Ops.lean ====
section
/-! SUPPORT. For each shared operation, what it can do, said once: the Sector Table, the transition, the edge pass, the
queries, the pools, the PWM registers, the step. -/

namespace Sys2Proof.Machine

/-! ### The Sector Table and the transition -/

theorem rom_none_iff (r : Raw) : rom r = none ↔ r = 0 ∨ r = 7 := by
  revert r; decide

/-- The table of R81 is the one of offset 2 (R82). -/
theorem rom_eq_offset (r : Raw) : rom r = romOffset 2 r := by
  revert r; decide

theorem dirFlip_ne (d : Dir) : dirFlip d ≠ d := by cases d <;> decide

theorem dirFlip_flip (d : Dir) : dirFlip (dirFlip d) = d := by cases d <;> rfl

/-- The direction is `+NAT` or `-NAT`. -/
theorem stepDir_cases (nat : Dir) (old new : Sector) : stepDir nat old new = nat ∨ stepDir nat old new = dirFlip nat := by
  unfold stepDir; split <;> (try split) <;> (try split) <;> simp

/-- The rotation moves by one at most. -/
theorem rotChange_cases (nat : Dir) (old new : Sector) :
    rotChange nat old new = -1 ∨ rotChange nat old new = 0 ∨ rotChange nat old new = 1 := by
  unfold rotChange
  split
  · cases stepDir nat old new <;> simp [dirSign]
  · simp

/-- The rotation register is the exact sum, wrapped to 32 signed bits. -/
theorem wrapRot_toInt (rot : Rot) (d : Int) : (wrapRot rot d).toInt = (rot.toInt + d).bmod (2 ^ 32) := by
  simp [wrapRot]

theorem recompute_invalid {h : Hall} (hc : rom h.code = none) (nat : Dir) (now : Time) :
    h.recompute nat now = ({ h with raw := h.code }, none) := by
  simp only [Hall.recompute, hc]

theorem recompute_valid {h : Hall} {ns : Sector} (hc : rom h.code = some ns) (nat : Dir) (now : Time) :
    h.recompute nat now =
      (Hall.transition { h with raw := h.code } nat ns now, if h.cbEn then some ns else none) := by
  simp only [Hall.recompute, hc]

/-! ### The edge pass -/

theorem edgePass_detached {s : State} {x : Channel} (h : s.hall.attached x = false) (lvl : Level) (now : Time) :
    edgePass x lvl now s = s.emit none := by
  simp [edgePass, h]

theorem edgePass_attached {s : State} {x : Channel} (h : s.hall.attached x = true) (lvl : Level) (now : Time) :
    edgePass x lvl now s =
      (s.setHall ((s.hall.setLevel x lvl).recompute s.params.nat now).1).emit
        ((s.hall.setLevel x lvl).recompute s.params.nat now).2 := by
  simp [edgePass, h]

section
variable (x : Channel) (lvl : Level) (now : Time) (s : State)

@[simp] theorem edgePass_params : (edgePass x lvl now s).params = s.params := by unfold edgePass; split <;> rfl
@[simp] theorem edgePass_pwm : (edgePass x lvl now s).pwm = s.pwm := by unfold edgePass; split <;> rfl
@[simp] theorem edgePass_inflight : (edgePass x lvl now s).inflight = s.inflight := by unfold edgePass; split <;> rfl
@[simp] theorem edgePass_sched : (edgePass x lvl now s).sched = s.sched := by unfold edgePass; split <;> rfl
@[simp] theorem edgePass_inputs : (edgePass x lvl now s).inputs = s.inputs := by unfold edgePass; split <;> rfl
@[simp] theorem edgePass_result : (edgePass x lvl now s).out.result = .nothing := by unfold edgePass; split <;> rfl

end

/-! ### The queries -/

theorem advance_kind (n : Nat) (q : Query) (h : Hall) : (q.advance n h).kind = q.kind := by
  induction n generalizing q with
  | zero => rfl
  | succ n ih =>
    cases ht : q.todo with
    | nil => simp [Query.advance, ht]
    | cons r rest => simp [Query.advance, ht, ih]

/-- With no read left, a slice does nothing. -/
theorem advance_done {q : Query} (hq : q.todo = []) (n : Nat) (h : Hall) : q.advance n h = q := by
  cases n <;> simp [Query.advance, hq]

/-- What a slice of reads leaves to be read. -/
theorem advance_todo (n : Nat) (q : Query) (h : Hall) : (q.advance n h).todo = q.todo.drop n := by
  induction n generalizing q with
  | zero => rfl
  | succ n ih =>
    cases ht : q.todo with
    | nil => simp [Query.advance, ht]
    | cons r rest => simp [Query.advance, ht, ih]

/-- A slice of reads reads the registers as they stand at that moment, in order. -/
theorem advance_latch (n : Nat) (q : Query) (h : Hall) :
    (q.advance n h).latch = (q.todo.take n).foldl (fun l r => l.read r h) q.latch := by
  induction n generalizing q with
  | zero => rfl
  | succ n ih =>
    cases ht : q.todo with
    | nil => simp [Query.advance, ht]
    | cons r rest => simp [Query.advance, ht, ih]

/-- A query run for `n` reads ends with its result, or stays in progress. -/
theorem runQuery_cases (n : Nat) (q : Query) (s : State) :
    ((q.todo.drop n = []) ∧ runQuery n q s = s.answer ((q.advance n s.hall).result s.params)) ∨
    ((q.todo.drop n ≠ []) ∧
      runQuery n q s = { s.answer .nothing with inflight := q.advance n s.hall :: s.inflight }) := by
  unfold runQuery
  rw [advance_todo]
  by_cases h : q.todo.drop n = []
  · exact .inl ⟨h, if_pos h⟩
  · exact .inr ⟨h, if_neg h⟩

section
variable (n : Nat) (q : Query) (s : State)

@[simp] theorem runQuery_params : (runQuery n q s).params = s.params := by unfold runQuery; split <;> rfl
@[simp] theorem runQuery_hall : (runQuery n q s).hall = s.hall := by unfold runQuery; split <;> rfl
@[simp] theorem runQuery_pwm : (runQuery n q s).pwm = s.pwm := by unfold runQuery; split <;> rfl
@[simp] theorem runQuery_sched : (runQuery n q s).sched = s.sched := by unfold runQuery; split <;> rfl
@[simp] theorem runQuery_inputs : (runQuery n q s).inputs = s.inputs := by unfold runQuery; split <;> rfl
@[simp] theorem runQuery_event : (runQuery n q s).out.event = none := by unfold runQuery; split <;> rfl

end

/-- With nothing left to read after the slice, the query ends. -/
theorem runQuery_ends {n : Nat} {q : Query} (h : q.todo.length ≤ n) (s : State) :
    runQuery n q s = s.answer ((q.advance n s.hall).result s.params) := by
  rcases runQuery_cases n q s with ⟨-, e⟩ | ⟨hne, -⟩
  · exact e
  · exact absurd (List.drop_eq_nil_of_le h) hne

theorem angleReads_length (o : AngleOrder) : (angleReads o).length = 2 := by cases o <;> rfl
theorem velocityReads_length (o : VelocityOrder) : (velocityReads o).length = 3 := by cases o <;> rfl

@[simp] theorem resumeQuery_nil {s : State} (h : s.inflight = []) (n : Nat) : resumeQuery n s = s := by
  simp [resumeQuery, h]

theorem resumeQuery_cons {s : State} {q : Query} {rest : List Query} (h : s.inflight = q :: rest) (n : Nat) :
    resumeQuery n s = runQuery n q { s with inflight := rest } := by
  simp [resumeQuery, h]

/-! ### The pools -/

theorem mem_poolSlots (x : Slot) (T : Topology) : x ∈ poolSlots T ↔ slotTopology x = T := by
  cases T <;> cases x with
  | s3 i => revert i; decide
  | s4 k => revert k; decide
  | s6 j => revert j; decide

/-- The conflict relation is symmetric, and crosses topologies (R122). -/
theorem conf_symm (x y : Slot) : y ∈ conf x ↔ x ∈ conf y := by
  cases x with
  | s3 i => cases y with
    | s3 j => revert i j; decide
    | s4 j => revert i j; decide
    | s6 j => revert i j; decide
  | s4 i => cases y with
    | s3 j => revert i j; decide
    | s4 j => revert i j; decide
    | s6 j => revert i j; decide
  | s6 i => cases y with
    | s3 j => revert i j; decide
    | s4 j => revert i j; decide
    | s6 j => revert i j; decide

theorem not_mem_conf_self (x : Slot) : x ∉ conf x := by
  cases x with
  | s3 i => revert i; decide
  | s4 k => revert k; decide
  | s6 j => revert j; decide

theorem firstFit_some {p : Pwm} {T : Topology} {x : Slot} (h : p.firstFit T = some x) :
    slotTopology x = T ∧ p.marker x = .empty :=
  ⟨(mem_poolSlots x T).1 (List.mem_of_find?_eq_some h), by simpa using List.find?_some h⟩

theorem firstFit_none {p : Pwm} {T : Topology} :
    p.firstFit T = none ↔ ∀ x : Slot, slotTopology x = T → p.marker x ≠ .empty := by
  simp [Pwm.firstFit, mem_poolSlots]

theorem find_some {p : Pwm} {T : Topology} {key : Pin} {x : Slot} (h : p.find T key = some x) :
    slotTopology x = T ∧ p.marker x = .pin key :=
  ⟨(mem_poolSlots x T).1 (List.mem_of_find?_eq_some h), by simpa using List.find?_some h⟩

theorem find_none {p : Pwm} {T : Topology} {key : Pin} :
    p.find T key = none ↔ ∀ x : Slot, slotTopology x = T → p.marker x ≠ .pin key := by
  simp [Pwm.find, mem_poolSlots]

@[simp] theorem takeAll_marker (p : Pwm) (xs : List Slot) (y : Slot) :
    (p.takeAll xs).marker y = if y ∈ xs then .taken else p.marker y := by
  induction xs generalizing p with
  | nil => simp [Pwm.takeAll]
  | cons x xs ih =>
    have : p.takeAll (x :: xs) = (p.setMarker x .taken).takeAll xs := rfl
    rw [this, ih, setMarker_marker]
    by_cases hy : y ∈ xs <;> by_cases hx : y = x <;> simp [hy, hx]

@[simp] theorem takeAll_phase (p : Pwm) (xs : List Slot) : (p.takeAll xs).phase = p.phase := by
  induction xs generalizing p with
  | nil => rfl
  | cons x xs ih => exact (ih (p.setMarker x .taken)).trans (setMarker_phase p x _)

@[simp] theorem takeAll_units (p : Pwm) (xs : List Slot) : (p.takeAll xs).units = p.units := by
  induction xs generalizing p with
  | nil => rfl
  | cons x xs ih => exact (ih (p.setMarker x .taken)).trans (setMarker_units p x _)

/-- The markers after an allocation of `x`: `Pin` there, `Taken` on its conflict set, the others as before (R120). -/
@[simp] theorem claim_marker (p : Pwm) (x : Slot) (pin : Pin) (y : Slot) :
    (p.claim x pin).marker y = if y ∈ conf x then .taken else if y = x then .pin pin else p.marker y := by
  simp [Pwm.claim]

@[simp] theorem claim_phase (p : Pwm) (x : Slot) (pin : Pin) : (p.claim x pin).phase = p.phase := by
  simp [Pwm.claim]

@[simp] theorem claim_units (p : Pwm) (x : Slot) (pin : Pin) : (p.claim x pin).units = p.units := by
  simp [Pwm.claim]

/-- What an allocation can do: it is refused after `SEAL`, fails with no state change, or claims the first fit. -/
theorem allocate_cases (T : Topology) (pin : Pin) (pins : List Pin) (s : State) :
    (s.pwm.phase = .run ∧ allocate T pin pins s = .refused .allocationAfterSeal) ∨
    (s.pwm.phase = .setup ∧ s.pwm.firstFit T = none ∧
      allocate T pin pins s = .next (s.answer .allocationFailure)) ∨
    (s.pwm.phase = .setup ∧ ∃ x, s.pwm.firstFit T = some x ∧
      allocate T pin pins s = .next ((s.setPwm (s.pwm.claim x pin)).answer (.slot (slotHandle x pins)))) := by
  unfold allocate
  cases s.pwm.phase with
  | run => simp
  | setup => cases s.pwm.firstFit T <;> simp

/-! ### The PWM registers -/

@[simp] theorem setRoutes_marker (p : Pwm) (ws : List (Route × Rat)) (y : Slot) :
    (p.setRoutes ws).marker y = p.marker y := by
  induction ws generalizing p with
  | nil => rfl
  | cons w ws ih => exact (ih (p.setRoute w.1 w.2)).trans (setRoute_marker p y w.1 w.2)

@[simp] theorem setRoutes_phase (p : Pwm) (ws : List (Route × Rat)) : (p.setRoutes ws).phase = p.phase := by
  induction ws generalizing p with
  | nil => rfl
  | cons w ws ih => exact (ih (p.setRoute w.1 w.2)).trans (setRoute_phase p w.1 w.2)

@[simp] theorem setRoutes_nil (p : Pwm) : p.setRoutes [] = p := rfl

theorem setRoutes_cons (p : Pwm) (w : Route × Rat) (ws : List (Route × Rat)) :
    p.setRoutes (w :: ws) = (p.setRoute w.1 w.2).setRoutes ws := rfl

@[simp] theorem setRoutes_pool3 (p : Pwm) (ws : List (Route × Rat)) : (p.setRoutes ws).pool3 = p.pool3 := by
  induction ws generalizing p with
  | nil => rfl
  | cons w ws ih => exact ih (p.setRoute w.1 w.2)

@[simp] theorem setRoutes_pool4 (p : Pwm) (ws : List (Route × Rat)) : (p.setRoutes ws).pool4 = p.pool4 := by
  induction ws generalizing p with
  | nil => rfl
  | cons w ws ih => exact ih (p.setRoute w.1 w.2)

@[simp] theorem setRoutes_pool6 (p : Pwm) (ws : List (Route × Rat)) : (p.setRoutes ws).pool6 = p.pool6 := by
  induction ws generalizing p with
  | nil => rfl
  | cons w ws ih => exact ih (p.setRoute w.1 w.2)

/-- A duty register of an output line that is not written keeps its value. -/
theorem setRoutes_duty_other (p : Pwm) (ws : List (Route × Rat)) (u : UnitId) (t : TmrId) (X : Operator)
    (h : ∀ w ∈ ws, w.1 ≠ ⟨u, t, X⟩) : ((p.setRoutes ws).subTimer u t).duty X = (p.subTimer u t).duty X := by
  induction ws generalizing p with
  | nil => rfl
  | cons w ws ih =>
    rw [setRoutes_cons, ih _ fun v hv => h v (List.mem_cons_of_mem _ hv), setRoute_subTimer]
    have hw := h w List.mem_cons_self
    split
    · next hc =>
      rw [setDuty_duty]
      split
      · next hX => exact absurd (by rw [hc.1, hc.2, hX]) hw
      · rfl
    · rfl

/-- What a duty write can do: a miss changes nothing, a hit writes the found slot's routes. -/
theorem writeDuties_cases (T : Topology) (key : Pin) (ds : List Rat) (s : State) :
    (s.pwm.find T key = none ∧ writeDuties T key ds s = s.answer .nothing) ∨
    (∃ x, s.pwm.find T key = some x ∧ writeDuties T key ds s =
      (s.setPwm (s.pwm.setRoutes ((slotRoutes x).zip (ds.map pct)))).answer .nothing) := by
  unfold writeDuties
  cases s.pwm.find T key <;> simp

/-- A configured unit: every sub-timer programmed alike, and aligned (R136, R140, R141). -/
theorem configure_subTimer (w : PwmUnit) (fa : Nat) (dz : DeadZone) (t : TmrId) :
    (w.configure fa dz).tmr[t] = ((w.tmr[t]).program fa).applyDeadZone fa dz := by
  simp [PwmUnit.configure]

@[simp] theorem configure_aligned (w : PwmUnit) (fa : Nat) (dz : DeadZone) : (w.configure fa dz).aligned = true := rfl

/-! ### The step -/

section
variable (n : Nat) (s : State)

@[simp] theorem resumeQuery_params : (resumeQuery n s).params = s.params := by
  unfold resumeQuery; split <;> simp
@[simp] theorem resumeQuery_hall : (resumeQuery n s).hall = s.hall := by
  unfold resumeQuery; split <;> simp
@[simp] theorem resumeQuery_pwm : (resumeQuery n s).pwm = s.pwm := by
  unfold resumeQuery; split <;> simp

end

/-- What a step that goes on can be: idling, a resumption, or an operation. -/
theorem step_cases {s t : State} (h : step s = .next t) :
    t = s
    ∨ (∃ n rest, s.inputs = .resume n :: rest ∧ t = resumeQuery n { s with inputs := rest })
    ∨ ∃ i rest sched, exec i { s with inputs := rest, sched := sched } = .next t := by
  unfold step at h
  split at h
  · exact .inl (by cases h; rfl)
  · next hi => exact .inr (.inl ⟨_, _, hi, by cases h; rfl⟩)
  · split at h
    · exact .inr (.inr ⟨_, _, _, h⟩)
    · cases h

theorem step_idle {s : State} (h : s.inputs = []) : step s = .next s := by simp [step, h]

theorem step_resume {s : State} {n : Nat} {rest : List Input} (h : s.inputs = .resume n :: rest) :
    step s = .next (resumeQuery n { s with inputs := rest }) := by simp [step, h]

theorem step_decoded {s : State} {c : Command} {sched : Sched} {rest : List Input} {i : Instr}
    (h : s.inputs = .command c sched :: rest) (hd : decode c = .ok i) :
    step s = exec i { s with inputs := rest, sched := sched } := by simp [step, h, hd]

theorem step_undecoded {s : State} {c : Command} {sched : Sched} {rest : List Input} {e : DecodeError}
    (h : s.inputs = .command c sched :: rest) (hd : decode c = .error e) :
    step s = .refused (refusalOf e) := by simp [step, h, hd]

end Sys2Proof.Machine
end

