-- ==== Sys2Proof/Laws/Decode.lean ====
section
/-! SUPPORT. What each group of the decoder answers: which functions it assigns, and which code an answer carries. -/

namespace Sys2Proof

/-- A code is its group and its function (R62). -/
theorem code_split (c : Byte) : c = codeGroup c ++ codeFn c := by
  revert c; decide +kernel

theorem portPin_nat (n : Nat) : portPin (n : Int) = .ok n := by simp [portPin]

theorem portPin_of_nonneg {p : Int} (h : 0 ≤ p) : portPin p = .ok p.toNat := if_pos h

theorem portPin_of_neg {p : Int} (h : p < 0) : portPin p = .error (.negativePin p) := if_neg (by omega)

theorem portUnit_val (u : UnitId) : portUnit (u.val : Int) = .ok u := by
  revert u; decide +kernel

/-- A pin port never reads as a reserved code. -/
theorem portPin_cases (p : Int) : (∃ n, portPin p = .ok n) ∨ portPin p = .error (.negativePin p) := by
  unfold portPin; split <;> simp

/-- The unit port never reads as a reserved code. -/
theorem portUnit_cases (u : Int) : (∃ v, portUnit u = .ok v) ∨ portUnit u = .error (.unitOutOfRange u) := by
  unfold portUnit; split <;> [skip; split] <;> simp

/-- An answer of a decoder that is not the reserved-code refusal of `code`, and carries `code` if it is an operation. -/
def answersCode (code : Byte) : Except DecodeError Instr → Prop
  | .ok i => i.code = code
  | .error (.reservedCode _) => False
  | .error (.unitOutOfRange _) => True
  | .error (.negativePin _) => True

theorem answersCode_pin {code : Byte} (p : Int) {f : Pin → Except DecodeError Instr}
    (h : ∀ n, answersCode code (f n)) : answersCode code (portPin p >>= f) := by
  rcases portPin_cases p with ⟨n, e⟩ | e <;> rw [e]
  · exact h n
  · trivial

theorem answersCode_unit {code : Byte} (u : Int) {f : UnitId → Except DecodeError Instr}
    (h : ∀ n, answersCode code (f n)) : answersCode code (portUnit u >>= f) := by
  rcases portUnit_cases u with ⟨n, e⟩ | e <;> rw [e]
  · exact h n
  · trivial

/-- The functions assigned in a group (R63, R64). -/
def assignedFns (g : Nat) : List Nat :=
  match g with
  | 0 => [0x0]
  | 1 => [0x0, 0x1, 0x2, 0x4, 0x5, 0x6, 0x8, 0x9, 0xA]
  | 2 => [0x0, 0x1, 0x2, 0x3, 0x4, 0x5, 0x8, 0x9, 0xA, 0xB, 0xC, 0xD, 0xE, 0xF]
  | 3 => [0x0, 0x1, 0x2, 0xF]
  | 4 => [0x0, 0x1, 0x2]
  | 5 => [0x0, 0x1, 0x2]
  | _ => []

/-- A code from its group and function numbers. -/
theorem code_of_fields {c : Byte} {g f : Nat} (hg : (codeGroup c).toNat = g) (hf : (codeFn c).toNat = f) :
    c = BitVec.ofNat 4 g ++ BitVec.ofNat 4 f := by
  subst hg; subst hf; simpa using code_split c

/-- The decoder's answer to an assigned code is an operation with that code, or the refusal of an operand. -/
theorem decode_assigned (c : Command) (h : (codeFn c.code).toNat ∈ assignedFns (codeGroup c.code).toNat) :
    answersCode c.code (decode c) := by
  unfold decode
  generalize hg : (codeGroup c.code).toNat = g at h ⊢
  rcases g with _ | _ | _ | _ | _ | _ | g
  · have hf : (codeFn c.code).toNat = 0 := by simpa [assignedFns] using h
    have : codeFn c.code = 0 := BitVec.toNat_inj.1 (by simpa using hf)
    simp only [this, ite_true]
    rw [code_of_fields hg hf]; rfl
  all_goals
    generalize hf : (codeFn c.code).toNat = f at h
    simp only [assignedFns, List.mem_cons, List.not_mem_nil, or_false] at h
  · simp only [decodeHallSetup, hf]
    rcases h with h | h | h | h | h | h | h | h | h <;> subst h <;> rw [code_of_fields hg hf] <;> rfl
  · simp only [decodeHallQuery, hf]
    rcases h with h | h | h | h | h | h | h | h | h | h | h | h | h | h <;> subst h <;>
      rw [code_of_fields hg hf] <;> rfl
  · simp only [decodeRegistry, hf]
    rcases h with h | h | h | h <;> subst h <;> rw [code_of_fields hg hf]
    · iterate 3 refine answersCode_pin _ fun _ => ?_
      rfl
    · iterate 4 refine answersCode_pin _ fun _ => ?_
      rfl
    · iterate 6 refine answersCode_pin _ fun _ => ?_
      rfl
    · rfl
  · simp only [decodeTimer, hf]
    rcases h with h | h | h <;> subst h <;> rw [code_of_fields hg hf] <;>
      exact answersCode_unit _ fun _ => rfl
  · simp only [decodeDuty, hf]
    rcases h with h | h | h <;> subst h <;> rw [code_of_fields hg hf] <;>
      exact answersCode_pin _ fun _ => rfl

/-- The decoder refuses every other code as reserved (R72 b). -/
theorem decode_unassigned (c : Command) (h : (codeFn c.code).toNat ∉ assignedFns (codeGroup c.code).toNat) :
    decode c = .error (.reservedCode c.code) := by
  unfold decode
  generalize hg : (codeGroup c.code).toNat = g at h ⊢
  rcases g with _ | _ | _ | _ | _ | _ | g
  · have : codeFn c.code ≠ 0 := fun e => h (by simp [e, assignedFns])
    exact if_neg this
  · simp only [decodeHallSetup]; split <;> simp_all [assignedFns]
  · simp only [decodeHallQuery]; split <;> simp_all [assignedFns]
  · simp only [decodeRegistry]; split <;> simp_all [assignedFns]
  · simp only [decodeTimer]; split <;> simp_all [assignedFns]
  · simp only [decodeDuty]; split <;> simp_all [assignedFns]
  · rfl

end Sys2Proof
end

