-- ==== Sys2Proof/Laws/PerInstr.lean ====
section
/-! SUPPORT. Per instruction: the fields `grp` and `fn` of its command code are those of its row of
spec/opcode_table.json (R62, R64). -/

namespace Sys2Proof.Laws.CodeFields

open Sys2Proof

/-- The row's `grp` and `fn`. -/
def tableFields : Instr → Nat × Nat
  | .sect _ => (0, 0)
  | .hallInit _ _ _ _ => (1, 0)
  | .cbAttach => (1, 1)
  | .cbDetach => (1, 2)
  | .irqAttachA => (1, 4)
  | .irqAttachB => (1, 5)
  | .irqAttachC => (1, 6)
  | .edgeA _ _ => (1, 8)
  | .edgeB _ _ => (1, 9)
  | .edgeC _ _ => (1, 10)
  | .getAngle => (2, 0)
  | .getVelocity _ => (2, 1)
  | .needsZeroSearch => (2, 2)
  | .hasAbsZero => (2, 3)
  | .zeroRel => (2, 4)
  | .zeroAbs => (2, 5)
  | .rdLevels => (2, 8)
  | .rdRaw => (2, 9)
  | .rdSector => (2, 10)
  | .rdDir => (2, 11)
  | .rdRot => (2, 12)
  | .rdTs => (2, 13)
  | .rdIvl => (2, 14)
  | .rdEdges => (2, 15)
  | .alloc3 _ _ _ => (3, 0)
  | .alloc4 _ _ _ _ => (3, 1)
  | .alloc6 _ _ _ _ _ _ => (3, 2)
  | .sealSlots => (3, 15)
  | .config3 _ _ => (4, 0)
  | .config4 _ _ => (4, 1)
  | .config6 _ _ _ => (4, 2)
  | .write3 _ _ _ _ => (5, 0)
  | .write4 _ _ _ _ _ => (5, 1)
  | .write6 _ _ _ _ => (5, 2)

/-- The two fields of the operation's code. -/
def Statement (i : Instr) : Prop := ((codeGroup i.code).toNat, (codeFn i.code).toNat) = tableFields i

theorem sect (r : Raw) : Statement (.sect r) :=
  show ((codeGroup 0x00#8).toNat, (codeFn 0x00#8).toNat) = (0, 0) from rfl
theorem hallInit (a b c : Level) (now : Time) : Statement (.hallInit a b c now) :=
  show ((codeGroup 0x10#8).toNat, (codeFn 0x10#8).toNat) = (1, 0) from rfl
theorem cbAttach : Statement .cbAttach :=
  show ((codeGroup 0x11#8).toNat, (codeFn 0x11#8).toNat) = (1, 1) from rfl
theorem cbDetach : Statement .cbDetach :=
  show ((codeGroup 0x12#8).toNat, (codeFn 0x12#8).toNat) = (1, 2) from rfl
theorem irqAttachA : Statement .irqAttachA :=
  show ((codeGroup 0x14#8).toNat, (codeFn 0x14#8).toNat) = (1, 4) from rfl
theorem irqAttachB : Statement .irqAttachB :=
  show ((codeGroup 0x15#8).toNat, (codeFn 0x15#8).toNat) = (1, 5) from rfl
theorem irqAttachC : Statement .irqAttachC :=
  show ((codeGroup 0x16#8).toNat, (codeFn 0x16#8).toNat) = (1, 6) from rfl
theorem edgeA (lvl : Level) (now : Time) : Statement (.edgeA lvl now) :=
  show ((codeGroup 0x18#8).toNat, (codeFn 0x18#8).toNat) = (1, 8) from rfl
theorem edgeB (lvl : Level) (now : Time) : Statement (.edgeB lvl now) :=
  show ((codeGroup 0x19#8).toNat, (codeFn 0x19#8).toNat) = (1, 9) from rfl
theorem edgeC (lvl : Level) (now : Time) : Statement (.edgeC lvl now) :=
  show ((codeGroup 0x1A#8).toNat, (codeFn 0x1A#8).toNat) = (1, 10) from rfl
theorem getAngle : Statement .getAngle :=
  show ((codeGroup 0x20#8).toNat, (codeFn 0x20#8).toNat) = (2, 0) from rfl
theorem getVelocity (now : Time) : Statement (.getVelocity now) :=
  show ((codeGroup 0x21#8).toNat, (codeFn 0x21#8).toNat) = (2, 1) from rfl
theorem needsZeroSearch : Statement .needsZeroSearch :=
  show ((codeGroup 0x22#8).toNat, (codeFn 0x22#8).toNat) = (2, 2) from rfl
theorem hasAbsZero : Statement .hasAbsZero :=
  show ((codeGroup 0x23#8).toNat, (codeFn 0x23#8).toNat) = (2, 3) from rfl
theorem zeroRel : Statement .zeroRel :=
  show ((codeGroup 0x24#8).toNat, (codeFn 0x24#8).toNat) = (2, 4) from rfl
theorem zeroAbs : Statement .zeroAbs :=
  show ((codeGroup 0x25#8).toNat, (codeFn 0x25#8).toNat) = (2, 5) from rfl
theorem rdLevels : Statement .rdLevels :=
  show ((codeGroup 0x28#8).toNat, (codeFn 0x28#8).toNat) = (2, 8) from rfl
theorem rdRaw : Statement .rdRaw :=
  show ((codeGroup 0x29#8).toNat, (codeFn 0x29#8).toNat) = (2, 9) from rfl
theorem rdSector : Statement .rdSector :=
  show ((codeGroup 0x2A#8).toNat, (codeFn 0x2A#8).toNat) = (2, 10) from rfl
theorem rdDir : Statement .rdDir :=
  show ((codeGroup 0x2B#8).toNat, (codeFn 0x2B#8).toNat) = (2, 11) from rfl
theorem rdRot : Statement .rdRot :=
  show ((codeGroup 0x2C#8).toNat, (codeFn 0x2C#8).toNat) = (2, 12) from rfl
theorem rdTs : Statement .rdTs :=
  show ((codeGroup 0x2D#8).toNat, (codeFn 0x2D#8).toNat) = (2, 13) from rfl
theorem rdIvl : Statement .rdIvl :=
  show ((codeGroup 0x2E#8).toNat, (codeFn 0x2E#8).toNat) = (2, 14) from rfl
theorem rdEdges : Statement .rdEdges :=
  show ((codeGroup 0x2F#8).toNat, (codeFn 0x2F#8).toNat) = (2, 15) from rfl
theorem alloc3 (pinA pinB pinC : Pin) : Statement (.alloc3 pinA pinB pinC) :=
  show ((codeGroup 0x30#8).toNat, (codeFn 0x30#8).toNat) = (3, 0) from rfl
theorem alloc4 (pin1A pin1B pin2A pin2B : Pin) : Statement (.alloc4 pin1A pin1B pin2A pin2B) :=
  show ((codeGroup 0x31#8).toNat, (codeFn 0x31#8).toNat) = (3, 1) from rfl
theorem alloc6 (pinAH pinAL pinBH pinBL pinCH pinCL : Pin) :
    Statement (.alloc6 pinAH pinAL pinBH pinBL pinCH pinCL) :=
  show ((codeGroup 0x32#8).toNat, (codeFn 0x32#8).toNat) = (3, 2) from rfl
theorem sealSlots : Statement .sealSlots :=
  show ((codeGroup 0x3F#8).toNat, (codeFn 0x3F#8).toNat) = (3, 15) from rfl
theorem config3 (u : UnitId) (req : FreqReq) : Statement (.config3 u req) :=
  show ((codeGroup 0x40#8).toNat, (codeFn 0x40#8).toNat) = (4, 0) from rfl
theorem config4 (u : UnitId) (req : FreqReq) : Statement (.config4 u req) :=
  show ((codeGroup 0x41#8).toNat, (codeFn 0x41#8).toNat) = (4, 1) from rfl
theorem config6 (u : UnitId) (req : FreqReq) (dz : DeadZone) : Statement (.config6 u req dz) :=
  show ((codeGroup 0x42#8).toNat, (codeFn 0x42#8).toNat) = (4, 2) from rfl
theorem write3 (key : Pin) (dA dB dC : Rat) : Statement (.write3 key dA dB dC) :=
  show ((codeGroup 0x50#8).toNat, (codeFn 0x50#8).toNat) = (5, 0) from rfl
theorem write4 (key : Pin) (d1A d1B d2A d2B : Rat) : Statement (.write4 key d1A d1B d2A d2B) :=
  show ((codeGroup 0x51#8).toNat, (codeFn 0x51#8).toNat) = (5, 1) from rfl
theorem write6 (key : Pin) (dA dB dC : Rat) : Statement (.write6 key dA dB dC) :=
  show ((codeGroup 0x52#8).toNat, (codeFn 0x52#8).toNat) = (5, 2) from rfl

end Sys2Proof.Laws.CodeFields
end

