-- ==== Sys2Proof/Laws/Safety.lean ====
section
/-! SUPPORT. The Boolean predicates of Safety.lean, read as propositions. -/

namespace Sys2Proof

open Machine

theorem params_wf_iff (p : Params) :
    p.wf = true ↔ 1 ≤ p.polePairs ∧ 1 ≤ p.tickHz ∧ 0 < p.fDefault ∧ 0 < p.fCeil6 ∧ p.fCeil6 < p.fCeil34 := by
  simp [Params.wf, and_assoc]

theorem hallOk_iff (h : Hall) :
    hallOk h = true ↔ h.raw = h.code ∧ (rom h.raw = none ∨ rom h.raw = some h.sector)
      ∧ (h.prevDir = none ∨ h.prevDir = some h.dir) := by
  simp [hallOk, and_assoc]

theorem queryOk_iff (q : Query) : queryOk q = true ↔ q.todo ≠ [] ∧ ∀ r ∈ q.todo, r ∈ queryRegs q.kind := by
  simp [queryOk]

theorem stateOk_iff (s : State) :
    stateOk s = true ↔ s.params.wf = true ∧ hallOk s.hall = true ∧ pwmOk s.pwm = true
      ∧ ∀ q ∈ s.inflight, queryOk q = true := by
  simp [stateOk, and_assoc]

@[simp] theorem isPin_empty : isPin .empty = false := rfl
@[simp] theorem isPin_taken : isPin .taken = false := rfl
@[simp] theorem isPin_pin (p : Pin) : isPin (.pin p) = true := rfl

/-- The four slots of a unit. -/
theorem slot_cases (x : Slot) :
    x = .s3 ⟨2 * (slotUnit x).val, by omega⟩ ∨ x = .s3 ⟨2 * (slotUnit x).val + 1, by omega⟩
      ∨ x = .s4 (slotUnit x) ∨ x = .s6 (slotUnit x) := by
  cases x with
  | s3 i => revert i; decide
  | s4 k => revert k; decide
  | s6 j => revert j; decide

/-- The pool invariant on one unit, over the markers of its four slots. -/
theorem unitOk_iff (p : Pwm) (u : UnitId) :
    unitOk p u = true ↔ ∃ a b c d : Marker,
      p.marker (.s3 ⟨2 * u.val, by omega⟩) = a ∧ p.marker (.s3 ⟨2 * u.val + 1, by omega⟩) = b
      ∧ p.marker (.s4 u) = c ∧ p.marker (.s6 u) = d
      ∧ ((a = .empty ∧ b = .empty ∧ c = .empty ∧ d = .empty)
        ∨ ((isPin a = true ∨ isPin b = true) ∧ a ≠ .taken ∧ b ≠ .taken ∧ c = .taken ∧ d = .taken)
        ∨ (isPin c = true ∧ a = .taken ∧ b = .taken ∧ d = .taken)
        ∨ (isPin d = true ∧ a = .taken ∧ b = .taken ∧ c = .taken)) := by
  have e3 : ∀ u : UnitId, slotsOn .threePhase u = [.s3 ⟨2 * u.val, by omega⟩, .s3 ⟨2 * u.val + 1, by omega⟩] := by decide
  have e4 : ∀ u : UnitId, slotsOn .stepper u = [.s4 u] := by decide
  have e6 : ∀ u : UnitId, slotsOn .sixPhase u = [.s6 u] := by decide
  simp only [unitOk, allMarked, holds, e3, e4, e6, List.all, List.any]
  obtain ⟨a, ha⟩ : ∃ a, p.marker (.s3 ⟨2 * u.val, by omega⟩) = a := ⟨_, rfl⟩
  obtain ⟨b, hb⟩ : ∃ b, p.marker (.s3 ⟨2 * u.val + 1, by omega⟩) = b := ⟨_, rfl⟩
  obtain ⟨c, hc⟩ : ∃ c, p.marker (.s4 u) = c := ⟨_, rfl⟩
  obtain ⟨d, hd⟩ : ∃ d, p.marker (.s6 u) = d := ⟨_, rfl⟩
  simp only [ha, hb, hc, hd]
  cases a <;> cases b <;> cases c <;> cases d <;> simp

end Sys2Proof
end

