-- ==== Sys2Proof/WellFormed.lean ====
section
/-! DEFINITION. The caller's contracts on operands (spec/30_encoding.md rule R65): a duty and a dead-zone fraction lie
in [0, 1]. The block neither checks nor clamps them (R65, R151, R140), so neither the decoder nor a meaning refuses an
operand outside its range (log 14); the other operand ranges of R65 are the operands' types. -/

namespace Sys2Proof

/-- A fraction in [0, 1]. -/
def fractionOk (d : Rat) : Bool := decide (0 ≤ d) && decide (d ≤ 1)

/-- The range of a dead-zone operand (R65, U8). -/
def DeadZone.ok : DeadZone → Bool
  | .absent => true
  | .frac z => fractionOk z

/-- The contracts of R65 on the operands of one operation (U7, U8). -/
def wellFormed : Instr → Bool
  | .config6 _ _ dz => dz.ok
  | .write3 _ dA dB dC => fractionOk dA && fractionOk dB && fractionOk dC
  | .write4 _ d1A d1B d2A d2B => fractionOk d1A && fractionOk d1B && fractionOk d2A && fractionOk d2B
  | .write6 _ dA dB dC => fractionOk dA && fractionOk dB && fractionOk dC
  | .sect _ | .hallInit _ _ _ _ | .cbAttach | .cbDetach | .irqAttachA | .irqAttachB | .irqAttachC
  | .edgeA _ _ | .edgeB _ _ | .edgeC _ _ | .getAngle | .getVelocity _ | .needsZeroSearch | .hasAbsZero
  | .zeroRel | .zeroAbs | .rdLevels | .rdRaw | .rdSector | .rdDir | .rdRot | .rdTs | .rdIvl | .rdEdges
  | .alloc3 _ _ _ | .alloc4 _ _ _ _ | .alloc6 _ _ _ _ _ _ | .sealSlots | .config3 _ _ | .config4 _ _ => true

end Sys2Proof
end

