-- ==== Sys2Proof/Tests/Slice0.lean ====
section
/-! SUPPORT. Tests: the operand contracts, decoding of command words written out from R62 to R66, one-step checks with the
values of spec/95_test_vectors.md, and for every statement with hypotheses a witness that meets them. -/

namespace Sys2Proof.Tests

open Sys2Proof Sys2Proof.Machine Sys2Proof.Claims

/-! ### Helpers -/

/-- The next state, if there is one. -/
def nextOf : Host.Outcome State Fault Refusal → Option State
  | .next t => some t
  | .fault _ => none
  | .refused _ => none

/-- The refusal, if there is one. -/
def refusalIn : Host.Outcome State Fault Refusal → Option Refusal
  | .next _ => none
  | .fault _ => none
  | .refused r => some r

/-- The result the next state shows. -/
def resultOf (o : Host.Outcome State Fault Refusal) : Option Result := (nextOf o).map (fun t => t.out.result)

/-- One projection of the next state. -/
def seen {α : Type} (o : Host.Outcome State Fault Refusal) (f : State → α) : Option α := (nextOf o).map f

/-- A Hall half at levels `a`, `b`, `c`, all three interrupts attached (the head of spec/95_test_vectors.md). -/
def hallAt (a b c : Level) (sector : Sector) (prev : Option Dir) (rot : Rot) (ts ivl : Time) : Hall where
  lvlA := a
  lvlB := b
  lvlC := c
  raw := rawOf a b c
  sector := sector
  dir := prev.getD .pos
  prevDir := prev
  rot := rot
  ts := ts
  ivl := ivl
  edges := 0
  cbEn := false
  irqEnA := true
  irqEnB := true
  irqEnC := true

/-- Reset, but for the Hall half. -/
def hallState (h : Hall) : State := { State.reset with hall := h }

/-- Reset, but for the pools and the phase. -/
def poolState (p3 : Vector Marker 4) (p4 p6 : Vector Marker 2) (ph : Phase) : State :=
  { State.reset with pwm := { Pwm.reset with pool3 := p3, pool4 := p4, pool6 := p6, phase := ph } }

/-- Reset with the environment's schedule cutting a query after `n` reads. -/
def slicedState (h : Hall) (n : Nat) : State :=
  { hallState h with sched := { Sched.unhurried with slice := n } }

/-- The markers after step 5 of section 1.1: both units held. -/
def fullState : State :=
  poolState #v[.pin 5, .pin 8, .taken, .taken] #v[.taken, .taken] #v[.taken, .pin 25] .setup

/-- Slot 0 of the three-phase pool allocated, unit 1 free. -/
def halfState (ph : Phase) : State :=
  poolState #v[.pin 5, .empty, .empty, .empty] #v[.taken, .empty] #v[.taken, .empty] ph

/-- A stepper on unit 0, unit 1 free. -/
def stepperState : State := poolState #v[.taken, .taken, .empty, .empty] #v[.pin 1, .empty] #v[.taken, .empty] .setup

/-- A six-phase motor on unit 0, unit 1 free. -/
def sixState : State := poolState #v[.taken, .taken, .empty, .empty] #v[.taken, .empty] #v[.pin 25, .empty] .setup

/-- The registers of a sub-timer. -/
def timerView (u : UnitId) (t : TmrId) (s : State) : SubTimer := s.pwm.subTimer u t

/-! ### The operand contracts of R65 -/

theorem test_wellFormed_duties_at_bounds :
    wellFormed (.write3 5 0 1 (1 / 2)) = true ∧ wellFormed (.write4 1 0 1 0 1) = true
      ∧ wellFormed (.write6 25 1 0 1) = true := by decide +kernel

theorem test_wellFormed_refuses_write3 :
    wellFormed (.write3 5 (-1 / 100) 0 0) = false ∧ wellFormed (.write3 5 0 (101 / 100) 0) = false
      ∧ wellFormed (.write3 5 0 0 2) = false := by decide +kernel

theorem test_wellFormed_refuses_write4 :
    wellFormed (.write4 1 2 0 0 0) = false ∧ wellFormed (.write4 1 0 (-1) 0 0) = false
      ∧ wellFormed (.write4 1 0 0 2 0) = false ∧ wellFormed (.write4 1 0 0 0 (-1)) = false := by decide +kernel

theorem test_wellFormed_refuses_write6 :
    wellFormed (.write6 25 2 0 0) = false ∧ wellFormed (.write6 25 0 (-1) 0) = false
      ∧ wellFormed (.write6 25 0 0 2) = false := by decide +kernel

theorem test_wellFormed_refuses_config6 :
    wellFormed (.config6 0 .unset (.frac 2)) = false ∧ wellFormed (.config6 0 .unset (.frac (-1 / 50))) = false
      ∧ wellFormed (.config6 0 .unset (.frac 1)) = true ∧ wellFormed (.config6 0 .unset .absent) = true := by
  decide +kernel

/-! ### Decoding: every constructor from a word written out from the table of R64 -/

theorem test_decode_sect :
    decode { code := 0b00000000#8, ports := { Ports.idle with r := 5 } } = .ok (.sect 5) := by decide

theorem test_decode_hall_setup :
    decode { code := 0b00010000#8, ports := { Ports.idle with a := true, now := 1000 } }
        = .ok (.hallInit true false false 1000)
      ∧ decode { code := 0b00010001#8, ports := Ports.idle } = .ok .cbAttach
      ∧ decode { code := 0b00010010#8, ports := Ports.idle } = .ok .cbDetach
      ∧ decode { code := 0b00010100#8, ports := Ports.idle } = .ok .irqAttachA
      ∧ decode { code := 0b00010101#8, ports := Ports.idle } = .ok .irqAttachB
      ∧ decode { code := 0b00010110#8, ports := Ports.idle } = .ok .irqAttachC := by decide

theorem test_decode_edges :
    decode { code := 0b00011000#8, ports := { Ports.idle with lvl := true, now := 7 } } = .ok (.edgeA true 7)
      ∧ decode { code := 0b00011001#8, ports := { Ports.idle with lvl := true, now := 8 } } = .ok (.edgeB true 8)
      ∧ decode { code := 0b00011010#8, ports := { Ports.idle with now := 9 } } = .ok (.edgeC false 9) := by decide

theorem test_decode_queries :
    decode { code := 0b00100000#8, ports := Ports.idle } = .ok .getAngle
      ∧ decode { code := 0b00100001#8, ports := { Ports.idle with now := 4250 } } = .ok (.getVelocity 4250)
      ∧ decode { code := 0b00100010#8, ports := Ports.idle } = .ok .needsZeroSearch
      ∧ decode { code := 0b00100011#8, ports := Ports.idle } = .ok .hasAbsZero
      ∧ decode { code := 0b00100100#8, ports := Ports.idle } = .ok .zeroRel
      ∧ decode { code := 0b00100101#8, ports := Ports.idle } = .ok .zeroAbs := by decide

theorem test_decode_field_reads :
    decode { code := 0b00101000#8, ports := Ports.idle } = .ok .rdLevels
      ∧ decode { code := 0b00101001#8, ports := Ports.idle } = .ok .rdRaw
      ∧ decode { code := 0b00101010#8, ports := Ports.idle } = .ok .rdSector
      ∧ decode { code := 0b00101011#8, ports := Ports.idle } = .ok .rdDir
      ∧ decode { code := 0b00101100#8, ports := Ports.idle } = .ok .rdRot
      ∧ decode { code := 0b00101101#8, ports := Ports.idle } = .ok .rdTs
      ∧ decode { code := 0b00101110#8, ports := Ports.idle } = .ok .rdIvl
      ∧ decode { code := 0b00101111#8, ports := Ports.idle } = .ok .rdEdges := by decide

theorem test_decode_registry :
    decode { code := 0b00110000#8, ports := { Ports.idle with pin0 := 5, pin1 := 6, pin2 := 7 } }
        = .ok (.alloc3 5 6 7)
      ∧ decode { code := 0b00110001#8, ports := { Ports.idle with pin0 := 1, pin1 := 2, pin2 := 3, pin3 := 4 } }
        = .ok (.alloc4 1 2 3 4)
      ∧ decode { code := 0b00110010#8, ports := { Ports.idle with
          pin0 := 25, pin1 := 26, pin2 := 27, pin3 := 14, pin4 := 12, pin5 := 13 } }
        = .ok (.alloc6 25 26 27 14 12 13)
      ∧ decode { code := 0b00111111#8, ports := Ports.idle } = .ok .sealSlots := by decide

theorem test_decode_timer :
    decode { code := 0b01000000#8, ports := { Ports.idle with unit := 0, freq := .hz 25000 } }
        = .ok (.config3 0 (.hz 25000))
      ∧ decode { code := 0b01000001#8, ports := { Ports.idle with unit := 1 } } = .ok (.config4 1 .unset)
      ∧ decode { code := 0b01000010#8, ports := { Ports.idle with unit := 1, freq := .hz 0, dz := .frac 1 } }
        = .ok (.config6 1 (.hz 0) (.frac 1)) := by decide

theorem test_decode_duty :
    decode { code := 0b01010000#8, ports := { Ports.idle with key := 5, d0 := 1, d2 := 3 } } = .ok (.write3 5 1 0 3)
      ∧ decode { code := 0b01010001#8, ports := { Ports.idle with key := 1, d1 := 1, d3 := 4 } }
        = .ok (.write4 1 0 1 0 4)
      ∧ decode { code := 0b01010010#8, ports := { Ports.idle with key := 25, d0 := 1, d1 := 2 } }
        = .ok (.write6 25 1 2 0) := by decide

/-- Codes beside the assigned ones are refused as reserved (R72 b). -/
theorem test_decode_reserved :
    [0x01, 0x0F, 0x13, 0x17, 0x1B, 0x1F, 0x26, 0x27, 0x33, 0x3E, 0x43, 0x4F, 0x53, 0x60, 0xFF].all (fun n : Nat =>
      decide (decode { code := BitVec.ofNat 8 n, ports := Ports.idle } = .error (.reservedCode (BitVec.ofNat 8 n))))
      = true := by decide

/-- Operands outside their types are refused by name (U11). -/
theorem test_decode_operand_out_of_type :
    decode { code := 0x40, ports := { Ports.idle with unit := 2 } } = .error (.unitOutOfRange 2)
      ∧ decode { code := 0x42, ports := { Ports.idle with unit := -1 } } = .error (.unitOutOfRange (-1))
      ∧ decode { code := 0x30, ports := { Ports.idle with pin1 := -20 } } = .error (.negativePin (-20))
      ∧ decode { code := 0x50, ports := { Ports.idle with key := -1 } } = .error (.negativePin (-1)) := by decide

/-- Every row of the table, presented after reset, takes a step. -/
theorem test_step_every_row_from_reset :
    assignedCodes.all (fun w => (nextOf (step (State.reset.withFetchWord 8 w.toNat))).isSome) = true := by
  decide +kernel

/-! ### The Sector Table and the Hall setup (vectors 2.1 to 2.3) -/

theorem test_sect_values :
    resultOf (exec (.sect 4) State.reset) = some (.sectorOrInvalid (some 2))
      ∧ resultOf (exec (.sect 7) State.reset) = some (.sectorOrInvalid none) := by decide +kernel

theorem test_hallInit_valid :
    seen (exec (.hallInit false false true 7000) (hallState (hallAt false true true 5 (some .neg) (-1) 5700 800)))
      (fun t => ((t.hall.raw, t.hall.sector, t.hall.rot, t.hall.ivl), t.hall.ts, t.hall.prevDir, t.hall.dir))
      = some ((1, 0, 0, 0), 7000, none, .neg) := by decide

theorem test_hallInit_invalid_keeps_sector :
    seen (exec (.hallInit true true true 50) (hallState (hallAt true false false 2 none 0 1000 0)))
      (fun t => (t.hall.raw, t.hall.sector, t.hall.ts)) = some (7, 2, 50) := by decide

theorem test_irqAttach :
    seen (exec .irqAttachA State.reset) (fun t => (t.hall.irqEnA, t.hall.irqEnB, t.hall.irqEnC))
        = some (true, false, false)
      ∧ seen (exec .irqAttachB State.reset) (fun t => (t.hall.irqEnA, t.hall.irqEnB, t.hall.irqEnC))
        = some (false, true, false)
      ∧ seen (exec .irqAttachC State.reset) (fun t => (t.hall.irqEnA, t.hall.irqEnB, t.hall.irqEnC))
        = some (false, false, true) := by decide

theorem test_cb_attach_detach :
    seen (exec .cbAttach State.reset) (fun t => t.hall.cbEn) = some true
      ∧ seen (exec .cbDetach { State.reset with hall := { State.reset.hall with cbEn := true } })
        (fun t => t.hall.cbEn) = some false := by decide

/-! ### Edges (vectors 2.4, 3 c, 3 f, 3 i, 3 l) -/

theorem test_edgeB_wraps_down_at_limit :
    seen (exec (.edgeB true 1500) (hallState (hallAt false false true 0 (some .neg) (-2147483648) 1000 0)))
      (fun t => (t.hall.raw, t.hall.sector, t.hall.dir, t.hall.rot.toInt)) = some (3, 5, .neg, 2147483647) := by decide

theorem test_edgeA_invalid_code :
    seen (exec (.edgeA false 300) (hallState (hallAt true false false 2 none 0 0 0)))
      (fun t => ((t.hall.lvlA, t.hall.raw, t.hall.sector), t.hall.ts, t.hall.edges, t.out.event))
      = some ((false, 0, 2), 0, 0, none) := by decide

theorem test_edgeA_reversal :
    seen (exec (.edgeA true 2600) (hallState (hallAt false true false 4 (some .pos) 0 2000 500)))
      (fun t => (t.hall.sector, t.hall.dir, t.hall.prevDir, t.hall.ivl, t.hall.ts))
      = some (3, .neg, some .neg, 0, 2600) := by decide

theorem test_edgeC_time_wraps :
    seen (exec (.edgeC true 400) (hallState (hallAt false true false 4 (some .pos) 0 4294967196 500)))
      (fun t => (t.hall.sector, t.hall.ts, t.hall.ivl)) = some (5, 400, 500) := by decide

theorem test_edgeC_not_attached :
    exec (.edgeC true 1200) { State.reset with inputs := [.resume 1] }
      = .next { State.reset with inputs := [.resume 1] } := rfl

/-- Vector 4, with a callback registered. -/
theorem test_edgeB_natural_direction_negative :
    seen (exec (.edgeB false 1000)
        { hallState { hallAt false true true 5 (some .neg) 0 500 0 with cbEn := true } with
          params := { Params.nominal with nat := .neg } })
      (fun t => ((t.hall.sector, t.hall.dir, t.hall.rot.toInt), t.hall.ivl, t.hall.edges, t.out.event))
      = some ((0, .neg, -1), 500, 1, some 0) := by decide

/-! ### Queries, zeroing, field reads (vectors 2.5 to 2.7 and 5) -/

theorem test_getAngle :
    resultOf (exec .getAngle (hallState (hallAt true false false 2 none 1 0 0))) = some (.angle (8 / 21))
      ∧ resultOf (exec .getAngle { hallState (hallAt false false true 0 none (-1) 0 0) with
          params := { Params.nominal with nat := .neg } }) = some (.angle (2 / 7)) := by decide +kernel

theorem test_zeroAbs :
    resultOf (exec .zeroAbs (hallState (hallAt false true true 5 none (-1) 0 0))) = some (.angle (1 / 21)) := by
  decide +kernel

theorem test_getVelocity_fresh :
    resultOf (exec (.getVelocity 3400) (hallState (hallAt true false false 2 (some .neg) 0 3300 700)))
      = some (.velocity (-10000 / 147)) := by decide +kernel

theorem test_getVelocity_bound :
    resultOf (exec (.getVelocity 4500) (hallState (hallAt true false false 2 (some .pos) 0 4000 500)))
        = some (.velocity (2000 / 21))
      ∧ resultOf (exec (.getVelocity 4501) (hallState (hallAt true false false 2 (some .pos) 0 4000 500)))
        = some (.velocity 0) := by decide +kernel

/-- `sector` read before the pass of `EDGE_B 0` and `rot` after it: `11/21*PI` (section 5). -/
theorem test_torn_angle :
    resultOf (step { hallState (hallAt false false true 0 (some .pos) 1 500 0) with
      inflight := [{ kind := .angle, todo := [.rot], latch := { Latch.clear with sector := 5 } }]
      inputs := [.resume 1] }) = some (.angle (11 / 21)) := by decide +kernel

/-- `ivl` and `dir` read before the pass of `EDGE_A 1, 2600`, `ts` after it: `+2000/21*PI` (section 5). -/
theorem test_torn_velocity :
    resultOf (step { hallState (hallAt true true false 3 (some .neg) 0 2600 0) with
      inflight := [{ kind := .velocity 2650, todo := [.ts], latch := { Latch.clear with ivl := 500 } }]
      inputs := [.resume 1] }) = some (.velocity (2000 / 21)) := by decide +kernel

theorem test_capability_flags :
    resultOf (exec .needsZeroSearch State.reset) = some (.flag false)
      ∧ resultOf (exec .hasAbsZero State.reset) = some (.flag true) := by decide +kernel

theorem test_zeroRel :
    seen (exec .zeroRel (hallState (hallAt false true false 4 (some .neg) 3 5700 800)))
      (fun t => (t.hall.rot, t.hall.sector, t.hall.ivl, t.hall.dir)) = some (0, 4, 800, .neg) := by decide

/-- The end state of program P1 (section 6). -/
def endOfP1 : State := hallState { hallAt true false false 2 (some .pos) 1 4000 500 with edges := 6 }

theorem test_field_reads :
    [Instr.rdLevels, .rdRaw, .rdSector, .rdDir].map (fun i => resultOf (exec i endOfP1))
        = [some (.levels 4), some (.raw 4), some (.sector 2), some (.dir .pos)]
      ∧ [Instr.rdRot, .rdTs, .rdIvl, .rdEdges].map (fun i => resultOf (exec i endOfP1))
        = [some (.rot 1), some (.ts 4000), some (.ivl 500), some (.edges 6)] := by decide +kernel

/-! ### The Slot Registry (vectors 1.1, 2.8, 2.9) -/

theorem test_alloc3_from_reset :
    seen (exec (.alloc3 5 6 7) State.reset) (fun t => (t.pwm.pool3, t.pwm.pool4, t.pwm.pool6))
        = some (#v[.pin 5, .empty, .empty, .empty], #v[.taken, .empty], #v[.taken, .empty])
      ∧ resultOf (exec (.alloc3 5 6 7) State.reset) = some (.slot ⟨.threePhase, 0, 0, [.A],
          [(5, ⟨0, 0, .A⟩), (6, ⟨0, 1, .A⟩), (7, ⟨0, 2, .A⟩)]⟩) := by decide +kernel

theorem test_alloc3_skips_taken :
    seen (exec (.alloc3 5 6 7) stepperState) (fun t => (t.pwm.pool3, t.pwm.pool4, t.pwm.pool6))
      = some (#v[.taken, .taken, .pin 5, .empty], #v[.pin 1, .taken], #v[.taken, .taken]) := by decide +kernel

theorem test_alloc4_from_reset :
    seen (exec (.alloc4 1 2 3 4) State.reset) (fun t => (t.pwm.pool3, t.pwm.pool4, t.pwm.pool6))
        = some (#v[.taken, .taken, .empty, .empty], #v[.pin 1, .empty], #v[.taken, .empty])
      ∧ resultOf (exec (.alloc4 1 2 3 4) State.reset) = some (.slot ⟨.stepper, 0, 0, [.A, .B],
          [(1, ⟨0, 0, .A⟩), (2, ⟨0, 1, .A⟩), (3, ⟨0, 0, .B⟩), (4, ⟨0, 1, .B⟩)]⟩) := by decide +kernel

theorem test_alloc6_second_unit :
    seen (exec (.alloc6 25 26 27 14 12 13) (halfState .setup)) (fun t => (t.pwm.pool3, t.pwm.pool4, t.pwm.pool6))
      = some (#v[.pin 5, .empty, .taken, .taken], #v[.taken, .taken], #v[.taken, .pin 25]) := by decide +kernel

theorem test_alloc_fails_and_is_refused :
    resultOf (exec (.alloc4 1 2 3 4) fullState) = some .allocationFailure
      ∧ refusalIn (exec (.alloc3 5 6 7) (halfState .run)) = some .allocationAfterSeal := by decide +kernel

theorem test_seal :
    seen (exec .sealSlots State.reset) (fun t => (t.pwm.phase, t.pwm.pool3))
      = some (.run, #v[.empty, .empty, .empty, .empty]) := by decide

/-! ### The Timer Configurator (vectors 1.3, 2.10) -/

theorem test_config3 :
    seen (exec (.config3 0 (.hz 25000)) State.reset) (timerView 0 2)
        = some { SubTimer.reset with mode := .upDown, freq := 50000, dutyMode := .activeHigh }
      ∧ seen (exec (.config3 0 (.hz 25000)) State.reset) (timerView 1 0) = some SubTimer.reset := by decide +kernel

theorem test_config4_clamped :
    seen (exec (.config4 1 (.hz 30001)) State.reset) (fun t => ((timerView 1 0 t).freq, t.pwm.units[1].aligned))
      = some (60000, true) := by decide +kernel

theorem test_config6_dead_time :
    seen (exec (.config6 0 (.hz 15000) (.frac (3 / 100))) State.reset) (timerView 0 1)
        = some { SubTimer.reset with
            mode := .upDown, freq := 30000, dutyMode := .activeHigh, dtMode := .complementary, dtRise := 10, dtFall := 10 }
      ∧ seen (exec (.config6 1 .unset (.frac (1 / 100))) State.reset) (fun t => (timerView 1 0 t).dtFall)
        = some (5 / 2) := by decide +kernel

theorem test_config6_no_dead_zone :
    seen (exec (.config6 0 (.hz 20001) .absent) State.reset) (timerView 0 0)
      = some { SubTimer.reset with mode := .upDown, freq := 40000, dutyMode := .activeHigh } := by decide +kernel

/-! ### The Duty-Cycle Writer (vectors 2.11) -/

/-- The duties of the three sub-timers of a unit, operator A then B of each. -/
def dutiesOf (u : UnitId) (s : State) : List Rat :=
  [(s.pwm.subTimer u 0).dutyA, (s.pwm.subTimer u 0).dutyB, (s.pwm.subTimer u 1).dutyA, (s.pwm.subTimer u 1).dutyB,
   (s.pwm.subTimer u 2).dutyA, (s.pwm.subTimer u 2).dutyB]

theorem test_write3_operator_b :
    seen (exec (.write3 8 1 (3 / 4) (1 / 10))
        (poolState #v[.taken, .taken, .pin 5, .pin 8] #v[.pin 1, .taken] #v[.taken, .taken] .run)) (dutiesOf 1)
      = some [0, 100, 0, 75, 0, 10] := by decide +kernel

theorem test_write3_other_pin_misses :
    seen (exec (.write3 6 1 1 1) (halfState .run)) (dutiesOf 0) = some [0, 0, 0, 0, 0, 0] := by decide +kernel

theorem test_write4 :
    seen (exec (.write4 1 1 0 (1 / 2) (1 / 4)) stepperState) (dutiesOf 0) = some [100, 50, 0, 25, 0, 0] := by
  decide +kernel

theorem test_write6 :
    seen (exec (.write6 25 (1 / 2) (1 / 5) (1 / 3)) sixState) (dutiesOf 0)
      = some [50, 50, 20, 20, 100 / 3, 100 / 3] := by decide +kernel

theorem test_write_wrong_pool_misses :
    seen (exec (.write3 25 1 1 1) sixState) (dutiesOf 0) = some [0, 0, 0, 0, 0, 0] := by decide +kernel

/-! ### Witnesses: for every statement with hypotheses, values that meet them together -/

/-- A command presented to the reset state, and one that is refused. -/
theorem witness_StepRunsDecodedOperation :
    (State.reset.withFetchWord 8 0x24).inputs = .command (encode .zeroRel) Sched.unhurried :: []
      ∧ decode (encode .zeroRel) = .ok .zeroRel := by decide +kernel

/-- A reserved code; units 2 and -1; a negative first, last, or second and third pin, a negative key; a command that
decodes at the bounds, unit 1 and pin 0; nothing presented; a resumption with nothing in flight. -/
theorem witness_StepRefusesOrIdles :
    ((State.reset.withFetchWord 8 0x60).inputs = .command { code := 0x60, ports := Ports.idle } Sched.unhurried :: []
        ∧ (0x60 : Byte) ∉ assignedCodes)
      ∧ ((0x40 : Byte) ∈ unitCodes ∧ (0x42 : Byte) ∈ unitCodes ∧ (2 : Int) ≠ 0 ∧ (2 : Int) ≠ 1 ∧ (-1 : Int) ≠ 0 ∧ (-1 : Int) ≠ 1)
      ∧ (pinOperands 0x31 { Ports.idle with pin0 := -1 }).find? (fun x => decide (x < 0)) = some (-1)
      ∧ (pinOperands 0x32 { Ports.idle with pin5 := -20 }).find? (fun x => decide (x < 0)) = some (-20)
      ∧ (pinOperands 0x30 { Ports.idle with pin1 := -3, pin2 := -4 }).find? (fun x => decide (x < 0)) = some (-3)
      ∧ (pinOperands 0x51 { Ports.idle with key := -1, pin0 := -2 }).find? (fun x => decide (x < 0)) = some (-1)
      ∧ ((0x42 : Byte) ∈ assignedCodes ∧ (∀ p ∈ pinOperands 0x42 { Ports.idle with unit := 1, pin0 := -1 }, 0 ≤ p))
      ∧ ((0x30 : Byte) ∈ assignedCodes ∧ (0x30 : Byte) ∉ unitCodes ∧ ∀ p ∈ pinOperands 0x30 Ports.idle, 0 ≤ p)
      ∧ State.reset.inputs = []
      ∧ ({ State.reset with inputs := [.resume 2] }.inputs = [.resume 2] ∧ State.reset.inflight = []) := by decide +kernel

/-- Both sides of the equivalence, at codes beside each other. -/
theorem witness_ReservedCodesRefused :
    (0x42 : Byte) ∈ assignedCodes ∧ (0x43 : Byte) ∉ assignedCodes ∧ (0x3E : Byte) ∉ assignedCodes
      ∧ (0x3F : Byte) ∈ assignedCodes := by decide

theorem witness_DecodedCodeIsTheOperations :
    decode { code := 0x41, ports := { Ports.idle with unit := 1, key := 9 } } = .ok (.config4 1 .unset) := by decide

theorem witness_SectorTableProperties :
    (rom 1 = some 0 ∧ rom 5 = some 1 ∧ (1 : Raw) ^^^ 5 = 4 ∧ (1 : Sector) = 0 + 1)
      ∧ (rom 1 = some 0 ∧ rom 4 = some 2 ∧ ¬((1 : Raw) ^^^ 4 = 1 ∨ (1 : Raw) ^^^ 4 = 2 ∨ (1 : Raw) ^^^ 4 = 4)) := by decide

/-- A valid and an invalid sample. -/
theorem witness_HallInitLoadsRegisters :
    rom (BitVec.ofNat 3 (rawNumber true true true)) = none
      ∧ rom (BitVec.ofNat 3 (rawNumber true true false)) = some 3 := by decide

theorem witness_HallInitForgetsEarlierRegisters :
    rom (BitVec.ofNat 3 (rawNumber true false false)) ≠ none
      ∧ (hallAt false true true 5 none 0 1000 0).dir = (hallAt true false false 2 (some .pos) 3 7 9).dir
      ∧ (∃ t, exec (.hallInit true false false 8) (hallState (hallAt false true true 5 none 0 1000 0)) = .next t)
      ∧ ∃ t, exec (.hallInit true false false 8) (hallState (hallAt true false false 2 (some .pos) 3 7 9)) = .next t :=
  ⟨by decide, by decide, ⟨_, rfl⟩, ⟨_, rfl⟩⟩

/-- Not attached; attached with an invalid code; attached with `delta` on both sides of each bound: 5, 3, -3, -5, and
4 and -4 (vectors 2.4, 3 b, 3 e, 3 f). -/
theorem witness_EdgePassTransition :
    State.reset.hall.attached .c = false
      ∧ ((hallAt true false false 2 none 0 0 0).attached .a = true
        ∧ rom (levelsCode ((hallAt true false false 2 none 0 0 0).setLevel .a false)) = none)
      ∧ rom (levelsCode ((hallAt false false true 0 none 0 0 0).setLevel .b true)) = some 5
      ∧ rom (levelsCode ((hallAt true true true 2 none 0 0 0).setLevel .a false)) = some 5
      ∧ rom (levelsCode ((hallAt false false false 5 none 0 0 0).setLevel .a true)) = some 2
      ∧ rom (levelsCode ((hallAt false true true 5 none 0 0 0).setLevel .b false)) = some 0
      ∧ rom (levelsCode ((hallAt false false false 0 none 0 0 0).setLevel .b true)) = some 4
      ∧ rom (levelsCode ((hallAt true true true 5 none 0 0 0).setLevel .b false)) = some 1 := by decide

theorem witness_EdgeMovesRotationByOne :
    ∃ t, exec (edgeOp .b false 9) (hallState (hallAt false true true 5 (some .pos) (-1) 0 0)) = .next t := ⟨_, rfl⟩

theorem witness_SpuriousEdgeCountsAsReverse :
    hallOk (hallAt false false true 0 (some .pos) 1 1000 500) = true
      ∧ (hallAt false false true 0 (some .pos) 1 1000 500).attached .b = true
      ∧ rom (hallAt false false true 0 (some .pos) 1 1000 500).raw ≠ none := by decide

/-- Two channels change from `(0, 0, 1)`: in one order the first pass sees a valid code, in the other an invalid one. -/
theorem witness_NearSimultaneousEdgesAgree :
    ((hallAt false false true 0 none 0 0 0).attached .b = true ∧ (hallAt false false true 0 none 0 0 0).attached .c = true)
      ∧ (∃ s₁ s₂, exec (edgeOp .b true 5) (hallState (hallAt false false true 0 none 0 0 0)) = .next s₁
        ∧ exec (edgeOp .c false 6) s₁ = .next s₂ ∧ rom s₂.hall.raw ≠ none)
      ∧ ∃ t₁ t₂, exec (edgeOp .c false 6) (hallState (hallAt false false true 0 none 0 0 0)) = .next t₁
        ∧ exec (edgeOp .b true 5) t₁ = .next t₂ :=
  ⟨by decide, ⟨_, _, rfl, rfl, by decide⟩, ⟨_, _, rfl, rfl⟩⟩

/-- Up across the wrap at the largest `rot` allowed, and down across it at the smallest. -/
theorem witness_PositionCountOnAdjacentStep :
    (rom (levelsCode ((hallAt false true true 5 none 2147483646 0 0).setLevel .b false)) = some 0
        ∧ (2147483646 : Rot).toInt < 2 ^ 31 - 1 ∧ (0 : Sector) = 5 + 1
        ∧ ∃ t, exec (edgeOp .b false 1) (hallState (hallAt false true true 5 none 2147483646 0 0)) = .next t)
      ∧ (rom (levelsCode ((hallAt false false true 0 none (-2147483647) 0 0).setLevel .b true)) = some 5
        ∧ -(2 ^ 31 : Int) < (-2147483647 : Rot).toInt
        ∧ ∃ t, exec (edgeOp .b true 1) (hallState (hallAt false false true 0 none (-2147483647) 0 0)) = .next t) :=
  ⟨⟨by decide, by decide, by decide, ⟨_, rfl⟩⟩, ⟨by decide, by decide, ⟨_, rfl⟩⟩⟩

theorem witness_AngleQueriesAnswer : 2 ≤ (slicedState (hallAt true false false 2 none 0 0 0) 2).sched.slice := by decide

theorem witness_VelocityQueryAnswers : 3 ≤ State.reset.sched.slice := by decide

/-- The last tick at which the velocity is non-zero, and the first at which it is zero. -/
theorem witness_VelocityNonzeroExactlyWhenFresh :
    Params.nominal.wf = true ∧ 3 ≤ (hallState (hallAt true false false 2 (some .pos) 0 4000 500)).sched.slice
      ∧ resultOf (exec (.getVelocity 4500) (hallState (hallAt true false false 2 (some .pos) 0 4000 500)))
        = some (.velocity (2000 / 21))
      ∧ resultOf (exec (.getVelocity 4501) (hallState (hallAt true false false 2 (some .pos) 0 4000 500)))
        = some (.velocity 0) := by decide +kernel

/-- A state with the query `q` pre-empted last, resumed for `n` reads. -/
def resumedState (h : Hall) (q : Query) (n : Nat) : State :=
  { hallState h with inflight := [q], inputs := [.resume n] }

/-- Slices 0, 1 and 2 of `GET_ANGLE`; after slice 0, resumptions for 0, 1 and 5 reads, around the edge of section 5. -/
theorem witness_TornAngleRead :
    (seen (exec .getAngle (slicedState (hallAt false true true 5 (some .pos) 0 0 500) 0)) (fun t => t.inflight)
        = some [⟨.angle, [.rot, .sector], Latch.clear⟩])
      ∧ seen (step (resumedState (hallAt false true true 5 (some .pos) 0 0 500) ⟨.angle, [.rot, .sector], Latch.clear⟩ 0))
          (fun t => t.inflight) = some [⟨.angle, [.rot, .sector], Latch.clear⟩]
      ∧ seen (step (resumedState (hallAt false true true 5 (some .pos) 0 0 500) ⟨.angle, [.rot, .sector], Latch.clear⟩ 1))
          (fun t => t.inflight) = some [⟨.angle, [.sector], Latch.clear⟩]
      ∧ resultOf (step (resumedState (hallAt false false true 0 (some .pos) 1 500 0) ⟨.angle, [.sector], Latch.clear⟩ 5))
          = some (.angle 0)
      ∧ seen (exec .zeroAbs (slicedState (hallAt false true true 5 (some .pos) 0 0 500) 1)) (fun t => t.inflight)
          = some [⟨.minusAngle, [.sector], Latch.clear⟩]
      ∧ 2 ≤ (slicedState (hallAt false true true 5 (some .pos) 0 0 500) 2).sched.slice := by decide +kernel

/-- Slices 0 and 2 of `GET_VELOCITY`; after slice 0, a resumption for 1 read and then one for 2. -/
theorem witness_TornVelocityRead :
    seen (exec (.getVelocity 2650) (slicedState (hallAt false true false 4 (some .pos) 0 2000 500) 0)) (fun t => t.inflight)
        = some [⟨.velocity 2650, [.ivl, .ts, .dir], Latch.clear⟩]
      ∧ seen (exec (.getVelocity 2650) (slicedState (hallAt false true false 4 (some .pos) 0 2000 500) 2))
          (fun t => t.inflight) = some [⟨.velocity 2650, [.dir], { Latch.clear with ivl := 500, ts := 2000 }⟩]
      ∧ seen (step (resumedState (hallAt false true false 4 (some .pos) 0 2000 500)
          ⟨.velocity 2650, [.ivl, .ts, .dir], Latch.clear⟩ 1)) (fun t => t.inflight)
          = some [⟨.velocity 2650, [.ts, .dir], { Latch.clear with ivl := 500 }⟩]
      ∧ resultOf (step (resumedState (hallAt true true false 3 (some .neg) 0 2600 0)
          ⟨.velocity 2650, [.ts, .dir], { Latch.clear with ivl := 500 }⟩ 2)) = some (.velocity (-2000 / 21)) := by
  decide +kernel

/-- The first slot, the `Run` phase, an exhausted pool, and the last slot. -/
theorem witness_AllocThreePhaseFirstFit :
    (State.reset.pwm.phase = .setup ∧ State.reset.pwm.pool3[(0 : Fin 4)] = .empty) ∧ (halfState .run).pwm.phase = .run
      ∧ (fullState.pwm.phase = .setup ∧ ∀ i : Fin 4, fullState.pwm.pool3[i] ≠ .empty)
      ∧ ∀ s : State, s = poolState #v[.taken, .taken, .pin 5, .empty] #v[.pin 1, .taken] #v[.taken, .taken] .setup →
        s.pwm.phase = .setup ∧ s.pwm.pool3[(3 : Fin 4)] = .empty ∧ ∀ j : Fin 4, j < 3 → s.pwm.pool3[j] ≠ .empty :=
  ⟨by decide, rfl, by decide, fun s h => by subst h; decide⟩

theorem witness_AllocStepperFirstFit :
    (State.reset.pwm.phase = .setup ∧ State.reset.pwm.pool4[(0 : Fin 2)] = .empty) ∧ (halfState .run).pwm.phase = .run
      ∧ (fullState.pwm.phase = .setup ∧ ∀ k : Fin 2, fullState.pwm.pool4[k] ≠ .empty)
      ∧ stepperState.pwm.phase = .setup ∧ stepperState.pwm.pool4[(1 : Fin 2)] = .empty
      ∧ ∀ j : Fin 2, j < 1 → stepperState.pwm.pool4[j] ≠ .empty := by decide

theorem witness_AllocSixPhaseFirstFit :
    (State.reset.pwm.phase = .setup ∧ State.reset.pwm.pool6[(0 : Fin 2)] = .empty) ∧ (halfState .run).pwm.phase = .run
      ∧ (fullState.pwm.phase = .setup ∧ ∀ j : Fin 2, fullState.pwm.pool6[j] ≠ .empty)
      ∧ sixState.pwm.phase = .setup ∧ sixState.pwm.pool6[(1 : Fin 2)] = .empty
      ∧ ∀ j : Fin 2, j < 1 → sixState.pwm.pool6[j] ≠ .empty := by decide

theorem witness_AllocFailsOnExhaustedPool :
    fullState.pwm.phase = .setup ∧ (∀ i : Fin 4, fullState.pwm.pool3[i] ≠ .empty)
      ∧ (∀ k : Fin 2, fullState.pwm.pool4[k] ≠ .empty) ∧ ∀ j : Fin 2, fullState.pwm.pool6[j] ≠ .empty := by decide

/-- An allocation in each phase, and another operation in `Run`. -/
theorem witness_AcceptedUnlessAllocAfterSeal :
    (isAlloc (.alloc3 5 6 7) = true ∧ (halfState .run).pwm.phase = .run)
      ∧ ¬(isAlloc (.alloc3 5 6 7) = true ∧ (halfState .setup).pwm.phase = .run)
      ∧ ¬(isAlloc (.write3 5 0 0 0) = true ∧ (halfState .run).pwm.phase = .run) := by decide

theorem witness_OrderedBootIsNeverRefused :
    allocsBeforeSeal State.reset.pwm.phase
      [.alloc6 25 26 27 14 12 13, .alloc3 5 6 7, .config6 0 .unset .absent, .sealSlots, .write3 5 0 0 0] = true
      ∧ allocsBeforeSeal .run [.alloc3 5 6 7] = false := by decide

theorem witness_UnitHeldByOneTopology :
    pwmOk fullState.pwm = true ∧ slotUnit (.s3 0) = slotUnit (.s3 1) ∧ isPin (fullState.pwm.marker (.s3 0)) = true
      ∧ isPin (fullState.pwm.marker (.s3 1)) = true := by decide

theorem witness_AllocOverwritesNoPin :
    pwmOk (halfState .setup).pwm = true ∧ (∃ t, exec (.alloc3 8 9 10) (halfState .setup) = .next t)
      ∧ (halfState .setup).pwm.marker (.s3 0) = .pin 5 := ⟨by decide, ⟨_, rfl⟩, by decide⟩

/-- Four three-phase motors; a stepper and a six-phase motor. -/
theorem witness_AllocationCapacity :
    pwmOk (poolState #v[.pin 1, .pin 2, .pin 3, .pin 4] #v[.taken, .taken] #v[.taken, .taken] .setup).pwm = true
      ∧ pwmOk (poolState #v[.taken, .taken, .taken, .taken] #v[.pin 1, .taken] #v[.taken, .pin 25] .run).pwm = true := by
  decide

theorem witness_MarkerTransitions :
    pwmOk State.reset.pwm = true
      ∧ ∃ t, step (State.reset.withFetchWord 8 0x31) = .next t ∧ t.pwm.marker (.s6 0) = .taken
        ∧ isPin (t.pwm.marker (.s4 0)) = true := ⟨by decide, ⟨_, rfl, rfl, rfl⟩⟩

theorem witness_SealEndsSetup : ∃ t, exec .sealSlots (halfState .setup) = .next t ∧ t.pwm.phase = .run := ⟨_, rfl, rfl⟩

/-- Requests at the two ceilings and beside them (vector 1.3). -/
theorem witness_FrequencyNormalised :
    (0 < Params.nominal.fDefault ∧ 0 < Params.nominal.fCeil6 ∧ Params.nominal.fCeil6 < Params.nominal.fCeil34)
      ∧ normalise Params.nominal .threePhase (.hz 1) = 2
      ∧ normalise Params.nominal .stepper (.hz 30000) = 60000 ∧ normalise Params.nominal .threePhase (.hz 30001) = 60000
      ∧ normalise Params.nominal .sixPhase (.hz 20000) = 40000
      ∧ normalise Params.nominal .sixPhase (.hz 20001) = 40000 := by decide

theorem witness_ConfigThreeAndFourProgramUnit :
    (Topology.threePhase = .threePhase ∨ Topology.threePhase = .stepper)
      ∧ (Topology.stepper = .threePhase ∨ Topology.stepper = .stepper) := by decide

/-- The request whose double is the ceiling meets both clauses, with one outcome; the next one up meets the second. -/
theorem witness_OutputFrequencyIsTheRequest :
    ((∃ t, exec (configOp .threePhase 0 (.hz 30000) .absent) State.reset = .next t)
        ∧ 2 * 30000 ≤ State.reset.params.fCeil34)
      ∧ ((∃ t, exec (configOp .sixPhase 1 (.hz 20001) (.frac 1)) State.reset = .next t)
        ∧ State.reset.params.fCeil6 ≤ 2 * 20001)
      ∧ ∃ t, exec (configOp .stepper 1 .unset .absent) State.reset = .next t :=
  ⟨⟨⟨_, rfl⟩, by decide⟩, ⟨⟨_, rfl⟩, by decide⟩, ⟨_, rfl⟩⟩

/-- A hit on the lower of two equal markers, and a miss. -/
theorem witness_FindIsLeastMatch :
    (poolState #v[.pin 5, .pin 5, .empty, .empty] #v[.taken, .empty] #v[.taken, .empty] .run).pwm.find .threePhase 5
        = some (.s3 0)
      ∧ fullState.pwm.find .stepper 5 = none := by decide

theorem witness_WriteThreeSetsSlotDuties :
    ((halfState .run).pwm.pool3[(0 : Fin 4)] = .pin 5) ∧ (∀ i : Fin 4, (halfState .run).pwm.pool3[i] ≠ .pin 6)
      ∧ ∀ s : State, s = poolState #v[.taken, .taken, .pin 5, .pin 8] #v[.pin 1, .taken] #v[.taken, .taken] .run →
        s.pwm.pool3[(3 : Fin 4)] = .pin 8 ∧ ∀ j : Fin 4, j < 3 → s.pwm.pool3[j] ≠ .pin 8 :=
  ⟨by decide, by decide, fun s h => by subst h; decide⟩

theorem witness_WriteFourSetsSlotDuties :
    stepperState.pwm.pool4[(0 : Fin 2)] = .pin 1 ∧ (∀ j : Fin 2, j < 0 → stepperState.pwm.pool4[j] ≠ .pin 1)
      ∧ ∀ k : Fin 2, stepperState.pwm.pool4[k] ≠ .pin 20 := by decide

theorem witness_WriteSixSetsSlotDuties :
    fullState.pwm.pool6[(1 : Fin 2)] = .pin 25 ∧ (∀ j : Fin 2, j < 1 → fullState.pwm.pool6[j] ≠ .pin 25)
      ∧ ∀ j : Fin 2, fullState.pwm.pool6[j] ≠ .pin 5 := by decide

theorem witness_WriteMissIsSilent :
    (∀ i : Fin 4, fullState.pwm.pool3[i] ≠ .pin 25) ∧ (∀ k : Fin 2, fullState.pwm.pool4[k] ≠ .pin 25)
      ∧ ∀ j : Fin 2, fullState.pwm.pool6[j] ≠ .pin 5 := by decide

theorem witness_AllocatedSlotsHaveDisjointRoutes :
    pwmOk fullState.pwm = true ∧ Slot.s3 0 ≠ Slot.s3 1 ∧ isPin (fullState.pwm.marker (.s3 0)) = true
      ∧ isPin (fullState.pwm.marker (.s3 1)) = true ∧ (⟨0, 2, .A⟩ : Route) ∈ slotRoutes (.s3 0) := by decide

theorem witness_LookupsStableAfterSeal :
    (halfState .run).pwm.phase = .run ∧ (halfState .run).pwm.find .threePhase 5 = some (.s3 0)
      ∧ ∃ t, step ((halfState .run).withFetchWord 8 0x50) = .next t := ⟨by decide, by decide, ⟨_, rfl⟩⟩

/-- A state with both units held, a query in progress and an allocation presented. -/
theorem witness_StepKeepsStateInvariant :
    ∃ s t : State, stateOk s = true ∧ s.inflight ≠ [] ∧ isPin (s.pwm.marker (.s3 0)) = true ∧ step s = .next t :=
  ⟨{ halfState .setup with
      hall := hallAt false true true 5 (some .pos) 0 1000 500
      inflight := [{ kind := .angle, todo := [.sector], latch := Latch.clear }]
      inputs := [.command (encode (.alloc3 8 9 10)) Sched.unhurried] },
    _, by decide +kernel, by decide, by decide, rfl⟩

theorem witness_ResetMeetsStateInvariant : Params.nominal.wf = true := by decide

/-- The same operation in states that agree in the Hall half only, and in the PWM half only. -/
theorem witness_HalvesAreIndependent :
    (∃ t, exec (.edgeB false 9) (hallState (hallAt false true true 5 none 0 0 0)) = .next t)
      ∧ (∃ t, exec (.edgeB false 9) { hallState (hallAt false true true 5 none 0 0 0) with pwm := fullState.pwm } = .next t)
      ∧ (∃ t, exec (.write3 5 1 1 1) fullState = .next t)
      ∧ (∃ t, exec (.write3 5 1 1 1) { fullState with hall := hallAt false true true 5 none 0 0 0 } = .next t)
      ∧ isPwmOp (.write3 5 1 1 1) = true ∧ isPwmOp (.edgeB false 9) = false :=
  ⟨⟨_, rfl⟩, ⟨_, rfl⟩, ⟨_, rfl⟩, ⟨_, rfl⟩, rfl, rfl⟩

theorem witness_WriteAccessMatrix :
    ∃ t, exec (.edgeB false 9) (hallState (hallAt false true true 5 (some .pos) 0 0 0)) = .next t
      ∧ t.hall.lvlB ≠ (hallAt false true true 5 (some .pos) 0 0 0).lvlB ∧ t.hall.rot ≠ 0 :=
  ⟨_, rfl, by decide, by decide⟩

theorem witness_OneWayStateStays :
    ∃ s t : State, step s = .next t ∧ s.pwm.phase = .run ∧ s.hall.attached .a = true
      ∧ (s.pwm.units[(0 : UnitId)]).aligned = true :=
  ⟨{ State.reset with
      hall := hallAt false true true 5 none 0 0 0
      pwm := { Pwm.reset with phase := .run, units := #v[⟨Pwm.reset.units[0].tmr, true⟩, Pwm.reset.units[1]] }
      inputs := [.command (encode (.hallInit true false false 9)) Sched.unhurried] },
    _, rfl, rfl, rfl, rfl⟩

theorem witness_AnswersAtReset : State.reset = State.resetWith Params.nominal := rfl

end Sys2Proof.Tests
end

section
/-! PROOFS. The reset values of R42: each array of the PWM half holds one value in every place at reset, and reading a
marker, a unit or a sub-timer gives that value. -/

namespace Sys2Proof.Machine

section reset
variable (p : Params) (x : Slot) (u : UnitId) (k : TmrId)

theorem pwmReset_pool3 : Pwm.reset.pool3 = .replicate 4 .empty := rfl
theorem pwmReset_pool4 : Pwm.reset.pool4 = .replicate 2 .empty := rfl
theorem pwmReset_pool6 : Pwm.reset.pool6 = .replicate 2 .empty := rfl
theorem pwmReset_units : Pwm.reset.units = .replicate 2 PwmUnit.reset := rfl
theorem pwmUnitReset_tmr : PwmUnit.reset.tmr = .replicate 3 SubTimer.reset := rfl

@[simp] theorem resetWith_params : (State.resetWith p).params = p := rfl
@[simp] theorem resetWith_hall : (State.resetWith p).hall = Hall.reset p := rfl
@[simp] theorem resetWith_pwm : (State.resetWith p).pwm = Pwm.reset := rfl

@[simp] theorem pwmReset_phase : Pwm.reset.phase = .setup := rfl

/-- At reset every slot is free, in each of the three pools. -/
@[simp] theorem pwmReset_marker : Pwm.reset.marker x = .empty := by
  cases x with
  | s3 i => simp [Pwm.marker, pwmReset_pool3]
  | s4 k => simp [Pwm.marker, pwmReset_pool4]
  | s6 j => simp [Pwm.marker, pwmReset_pool6]

@[simp] theorem pwmReset_unit : Pwm.reset.units[u] = PwmUnit.reset := by simp [pwmReset_units]

@[simp] theorem pwmUnitReset_aligned : PwmUnit.reset.aligned = false := rfl

@[simp] theorem pwmReset_subTimer : Pwm.reset.subTimer u k = SubTimer.reset := by
  simp only [Pwm.subTimer, pwmReset_unit]
  simp [pwmUnitReset_tmr]

end reset

/-- Settles O55: the Hall half by its definition, the PWM half by what each of its reads returns at reset (R42). -/
theorem resetValues : Obligations.ResetValues := by
  intro p
  have hmarker (x : Slot) : (State.resetWith p).pwm.marker x = .empty := pwmReset_marker x
  have haligned (u : UnitId) : ((State.resetWith p).pwm.units[u]).aligned = false := by
    rw [resetWith_pwm, pwmReset_unit, pwmUnitReset_aligned]
  have htimer (u : UnitId) (k : TmrId) : (State.resetWith p).pwm.subTimer u k = SubTimer.reset :=
    pwmReset_subTimer u k
  exact ⟨resetWith_params p, resetWith_hall p, hmarker, pwmReset_phase, haligned, htimer⟩

end Sys2Proof.Machine
end

section
/-! PROOFS. The Sector Table operation `SECT` (R80) and the contents of the table (R81). -/

namespace Sys2Proof.Machine

open Sys2Proof.Claims (answers)

/-- An operation that only answers leaves every part of the state but its outputs (log 8). -/
theorem answer_eq (s : State) (res : Result) : s.answer res = { s with out := answers res } := rfl

theorem exec_sect (r : Raw) (s : State) : exec (.sect r) s = .next (s.answer (.sectorOrInvalid (rom r))) := rfl

/-- The list R81 prints, indexed by the raw code. -/
theorem rom_table :
    (List.range 8).map (fun r => sectorCode (rom (BitVec.ofNat 3 r))) = [-1, 0, 4, 5, 2, 1, 3, -1] := by decide

/-- Settles O7: `SECT` only answers, in every state, and the table is evaluated at its eight codes. -/
theorem sectAnswersTableEntry : Obligations.SectAnswersTableEntry := by
  refine ⟨fun s r => ?_, rom_table⟩
  rw [exec_sect, answer_eq]

end Sys2Proof.Machine
end

section
/-! PROOFS. The Hall state machine: the setup operations (R88 to R91, R99, R100) and the edge operations (R85, R92 to R98,
R101 to R103). The lemmas give each operation's whole next state, and the raw code, the direction and the change of `rot`
in the spec's own terms; the obligations are read off them. -/

namespace Sys2Proof.Machine

open Sys2Proof.Claims (edgeOp rawNumber levelsCode silent)

/-! ### The raw code as a number -/

/-- The concatenation of the three bits is the number of R60. -/
theorem ofNat_rawNumber (a b c : Level) : BitVec.ofNat 3 (rawNumber a b c) = rawOf a b c := by
  revert a b c; decide

theorem levelsCode_eq_code (h : Hall) : levelsCode h = h.code := ofNat_rawNumber h.lvlA h.lvlB h.lvlC

/-! ### What each operation executes -/

section exec
variable (s : State)

/-- An operation with neither result nor callback event is silent. -/
theorem answer_nothing : s.answer .nothing = { s with out := silent } := answer_eq s .nothing

theorem emit_none : s.emit none = { s with out := silent } := rfl

theorem exec_hallInit (a b c : Level) (now : Time) :
    exec (.hallInit a b c now) s = .next ((s.setHall (s.hall.init a b c now)).answer .nothing) := rfl

theorem exec_irqAttachA : exec .irqAttachA s = .next ((s.setHall (s.hall.attach .a)).answer .nothing) := rfl
theorem exec_irqAttachB : exec .irqAttachB s = .next ((s.setHall (s.hall.attach .b)).answer .nothing) := rfl
theorem exec_irqAttachC : exec .irqAttachC s = .next ((s.setHall (s.hall.attach .c)).answer .nothing) := rfl

theorem exec_cbAttach : exec .cbAttach s = .next ((s.setHall { s.hall with cbEn := true }).answer .nothing) := rfl
theorem exec_cbDetach : exec .cbDetach s = .next ((s.setHall { s.hall with cbEn := false }).answer .nothing) := rfl

/-- On every channel an edge operation is the edge pass (R101, R102, R103). -/
theorem exec_edgeOp (x : Channel) (lvl : Level) (now : Time) :
    exec (edgeOp x lvl now) s = .next (edgePass x lvl now s) := by
  cases x <;> rfl

end exec

/-! ### Step 2 in the terms of R94 -/

section step2
variable (nat : Dir) (old new : Sector)

theorem dirSign_flip (d : Dir) : dirSign (dirFlip d) = -dirSign d := by cases d <;> rfl

theorem stepDir_eq : stepDir nat old new =
    if (new.val : Int) - (old.val : Int) > 3 then dirFlip nat
    else if (new.val : Int) - (old.val : Int) < -3 then nat
    else if new.val > old.val then nat else dirFlip nat := by
  simp only [stepDir, sectorDelta, Fin.lt_def, gt_iff_lt]

/-- The rotation counts the wraparounds: down by the natural direction's sign when the sector jumps up, up when it jumps
down. -/
theorem rotChange_eq : rotChange nat old new =
    if (new.val : Int) - (old.val : Int) > 3 then -dirSign nat
    else if (new.val : Int) - (old.val : Int) < -3 then dirSign nat
    else 0 := by
  by_cases hup : (new.val : Int) - (old.val : Int) > 3
  · simp [rotChange, isWrap, stepDir, sectorDelta, hup, dirSign_flip]
  · by_cases hdown : (new.val : Int) - (old.val : Int) < -3
    · simp [rotChange, isWrap, stepDir, sectorDelta, hup, hdown]
    · simp [rotChange, isWrap, sectorDelta, hup, hdown]

end step2

/-! ### The edge pass on an attached channel -/

section edge
variable {s : State} {x : Channel} {lvl : Level}

/-- An invalid code ends the recomputation at step 1 (R93). -/
theorem edgePass_invalid (ha : s.hall.attached x = true) (hc : rom (s.hall.setLevel x lvl).code = none) (now : Time) :
    edgePass x lvl now s =
      (s.setHall { s.hall.setLevel x lvl with raw := (s.hall.setLevel x lvl).code }).emit none := by
  rw [edgePass_attached ha, recompute_invalid hc]

/-- A valid code carries out steps 2 to 4 on the stored level and code, then emits the sector if `cb_en` is set
(R94, R95, R96, R98). -/
theorem edgePass_valid (ha : s.hall.attached x = true) {ns : Sector}
    (hc : rom (s.hall.setLevel x lvl).code = some ns) (now : Time) :
    edgePass x lvl now s =
      (s.setHall (Hall.transition { s.hall.setLevel x lvl with raw := (s.hall.setLevel x lvl).code }
        s.params.nat ns now)).emit (if s.hall.cbEn then some ns else none) := by
  rw [← setLevel_cbEn s.hall x lvl, edgePass_attached ha, recompute_valid hc]

end edge

/-! ### The obligations -/

/-- Settles O13: an edge operation is the edge pass, which ignores a channel not attached, stops at an invalid code, and
otherwise makes the transition; a level store leaves the registers the transition reads. -/
theorem edgePassTransition : Obligations.EdgePassTransition := by
  intro s x lvl now
  rw [exec_edgeOp]
  refine ⟨fun hdet => ?_, fun hatt h hh => ⟨fun hinvalid => ?_, fun ns delta d nd hvalid hdelta hnd hd => ?_⟩⟩
  · rw [edgePass_detached hdet, emit_none]
  · subst hh
    rw [levelsCode_eq_code] at hinvalid ⊢
    rw [edgePass_invalid hatt hinvalid, emit_none, State.setHall]
  · subst hh hdelta
    rw [← stepDir_eq] at hnd
    rw [← rotChange_eq] at hd
    subst hnd hd
    rw [levelsCode_eq_code] at hvalid ⊢
    rw [edgePass_valid hatt hvalid]
    simp only [Hall.transition, wrapRot, State.setHall, State.emit, setLevel_rot, setLevel_sector, setLevel_prevDir,
      setLevel_ts, setLevel_edges]

/-- Settles O9: the two samples differ in the sector only, taken from the table or kept. -/
theorem hallInitLoadsRegisters : Obligations.HallInitLoadsRegisters := by
  intro s a b c now
  rw [exec_hallInit, answer_nothing, ofNat_rawNumber]
  cases hrom : rom (rawOf a b c) with
  | none => simp only [Hall.init, State.setHall, hrom, Option.getD_none]
  | some ns => simp only [Hall.init, State.setHall, hrom, Option.getD_some]

/-- Settles O11: `irq_en` of a channel is written by that channel's operation alone. -/
theorem irqAttachSetsOwnBit : Obligations.IrqAttachSetsOwnBit := by
  intro s
  rw [exec_irqAttachA, exec_irqAttachB, exec_irqAttachC]
  simp only [answer_nothing, State.setHall, Hall.attach, and_self]

/-- Settles O12: both operations store the one bit and answer nothing. -/
theorem callbackBitWritten : Obligations.CallbackBitWritten := by
  intro s
  rw [exec_cbAttach, exec_cbDetach]
  simp only [answer_nothing, State.setHall, and_self]

end Sys2Proof.Machine
end

section
/-! PROOFS. The operations on the Hall half that answer from one state: the two capability flags (R108, R109), the relative
zero (R110) and the eight field reads (R112 to R119). Each operation's next state is said once; but for `ZERO_REL` each is
an answer alone, so `answer_eq` gives its frame. -/

namespace Sys2Proof.Machine

open Sys2Proof.Claims (levelsCode)

/-! ### What each operation executes -/

section exec
variable (s : State)

theorem exec_needsZeroSearch : exec .needsZeroSearch s = .next (s.answer (.flag false)) := rfl
theorem exec_hasAbsZero : exec .hasAbsZero s = .next (s.answer (.flag true)) := rfl

theorem exec_zeroRel : exec .zeroRel s = .next ((s.setHall { s.hall with rot := 0 }).answer .nothing) := rfl

/-- The answer is assembled from the three stored levels, not taken from `raw` (R112). -/
theorem exec_rdLevels : exec .rdLevels s = .next (s.answer (.levels s.hall.code)) := rfl

theorem exec_rdRaw : exec .rdRaw s = .next (s.answer (.raw s.hall.raw)) := rfl
theorem exec_rdSector : exec .rdSector s = .next (s.answer (.sector s.hall.sector)) := rfl
theorem exec_rdDir : exec .rdDir s = .next (s.answer (.dir s.hall.dir)) := rfl
theorem exec_rdRot : exec .rdRot s = .next (s.answer (.rot s.hall.rot)) := rfl
theorem exec_rdTs : exec .rdTs s = .next (s.answer (.ts s.hall.ts)) := rfl
theorem exec_rdIvl : exec .rdIvl s = .next (s.answer (.ivl s.hall.ivl)) := rfl
theorem exec_rdEdges : exec .rdEdges s = .next (s.answer (.edges s.hall.edges)) := rfl

end exec

/-! ### The obligations -/

/-- Settles O26: each read is an answer alone, with its register; the levels' concatenation is the number of R60. -/
theorem fieldReadsAnswerRegisters : Obligations.FieldReadsAnswerRegisters := by
  intro s
  have hlevels : s.hall.code = levelsCode s.hall := (levelsCode_eq_code s.hall).symm
  rw [exec_rdLevels, exec_rdRaw, exec_rdSector, exec_rdDir, exec_rdRot, exec_rdTs, exec_rdIvl, exec_rdEdges, hlevels]
  simp only [answer_eq, and_self]

/-- Settles O24: both operations only answer, with their constants. -/
theorem capabilityFlagsConstant : Obligations.CapabilityFlagsConstant := by
  intro s
  rw [exec_needsZeroSearch, exec_hasAbsZero]
  simp only [answer_eq, and_self]

/-- Settles O25: the Hall registers are replaced by themselves with `rot` cleared, and the operation is silent. -/
theorem zeroRelClearsRotation : Obligations.ZeroRelClearsRotation := by
  intro s
  rw [exec_zeroRel, answer_nothing, State.setHall]

end Sys2Proof.Machine
end

section
/-! PROOFS. The Slot Registry: the three allocations (R120 to R127) and `SEAL` (R128). A scan in index order returns the
slot of least index; the marker writes of a claim are written out pool by pool; each allocation is then refused, fails or
claims by a lemma that holds for every topology. -/

namespace Sys2Proof.Machine

open Sys2Proof.Claims (unitOf answers silent)

/-! ### The scan of a pool -/

section scan

/-- A slot stands in its pool's list at its own index (R33). -/
theorem poolSlots_getElem? (x : Slot) : (poolSlots (slotTopology x))[slotIndex x]? = some x := by
  cases x with
  | s3 i => revert i; decide
  | s4 k => revert k; decide
  | s6 j => revert j; decide

/-- The slot at a place of a pool's list has that place as its index. -/
theorem slotIndex_of_getElem? {T : Topology} {n : Nat} {x : Slot} (h : (poolSlots T)[n]? = some x) : slotIndex x = n := by
  have hT : slotTopology x = T := (mem_poolSlots x T).1 (List.mem_of_getElem? h)
  have hnodup : (poolSlots T).Nodup := by cases T <;> decide
  have hx : (poolSlots T)[slotIndex x]? = some x := hT ▸ poolSlots_getElem? x
  obtain ⟨hlt, -⟩ := List.getElem?_eq_some_iff.1 hx
  exact (List.getElem?_inj hlt hnodup).1 (hx.trans h.symm)

/-- A scan in index order answers the slot of least index in the pool that has the property sought (R120, R150). -/
theorem poolSlots_find?_eq_some {T : Topology} {P : Slot → Bool} {x : Slot} :
    (poolSlots T).find? P = some x ↔
      slotTopology x = T ∧ P x = true ∧ ∀ y, slotTopology y = T → slotIndex y < slotIndex x → P y = false := by
  rw [List.find?_eq_some_iff_getElem]
  constructor
  · rintro ⟨hP, n, hn, hx, hbefore⟩
    have hget : (poolSlots T)[n]? = some x := List.getElem?_eq_some_iff.2 ⟨hn, hx⟩
    refine ⟨(mem_poolSlots x T).1 (List.mem_of_getElem? hget), hP, fun y hy hlt => ?_⟩
    subst hy
    rw [slotIndex_of_getElem? hget] at hlt
    obtain ⟨hlen, hy⟩ := List.getElem?_eq_some_iff.1 (poolSlots_getElem? y)
    simpa [hy] using hbefore (slotIndex y) hlt
  · rintro ⟨hT, hP, hbefore⟩
    subst hT
    obtain ⟨hlen, hx⟩ := List.getElem?_eq_some_iff.1 (poolSlots_getElem? x)
    refine ⟨hP, slotIndex x, hlen, hx, fun m hm => ?_⟩
    have hget := List.getElem?_eq_getElem (hm.trans hlen)
    have hT := (mem_poolSlots _ _).1 (List.mem_of_getElem? hget)
    simp [hbefore _ hT (by rwa [slotIndex_of_getElem? hget])]

theorem firstFit_eq_some {p : Pwm} {T : Topology} {x : Slot} : p.firstFit T = some x ↔
    slotTopology x = T ∧ p.marker x = .empty
      ∧ ∀ y, slotTopology y = T → slotIndex y < slotIndex x → p.marker y ≠ .empty := by
  simp [Pwm.firstFit, poolSlots_find?_eq_some]

/-! What holds of the slots of a topology, said of the indices of its pool. -/

theorem forall_threePhase {P : Slot → Prop} : (∀ x, slotTopology x = .threePhase → P x) ↔ ∀ i, P (.s3 i) := by
  refine ⟨fun h i => h _ rfl, fun h x hx => ?_⟩
  cases x with
  | s3 i => exact h i
  | s4 | s6 => cases hx

theorem forall_stepper {P : Slot → Prop} : (∀ x, slotTopology x = .stepper → P x) ↔ ∀ k, P (.s4 k) := by
  refine ⟨fun h k => h _ rfl, fun h x hx => ?_⟩
  cases x with
  | s4 k => exact h k
  | s3 | s6 => cases hx

theorem forall_sixPhase {P : Slot → Prop} : (∀ x, slotTopology x = .sixPhase → P x) ↔ ∀ j, P (.s6 j) := by
  refine ⟨fun h j => h _ rfl, fun h x hx => ?_⟩
  cases x with
  | s6 j => exact h j
  | s3 | s4 => cases hx

variable {p : Pwm}

theorem firstFit_threePhase_none : p.firstFit .threePhase = none ↔ ∀ i : Fin 4, p.pool3[i] ≠ .empty :=
  firstFit_none.trans forall_threePhase

theorem firstFit_stepper_none : p.firstFit .stepper = none ↔ ∀ k : Fin 2, p.pool4[k] ≠ .empty :=
  firstFit_none.trans forall_stepper

theorem firstFit_sixPhase_none : p.firstFit .sixPhase = none ↔ ∀ j : Fin 2, p.pool6[j] ≠ .empty :=
  firstFit_none.trans forall_sixPhase

theorem firstFit_threePhase {i : Fin 4} (he : p.pool3[i] = .empty) (hleast : ∀ j : Fin 4, j < i → p.pool3[j] ≠ .empty) :
    p.firstFit .threePhase = some (.s3 i) :=
  firstFit_eq_some.2 ⟨rfl, he, forall_threePhase.2 hleast⟩

theorem firstFit_stepper {k : Fin 2} (he : p.pool4[k] = .empty) (hleast : ∀ j : Fin 2, j < k → p.pool4[j] ≠ .empty) :
    p.firstFit .stepper = some (.s4 k) :=
  firstFit_eq_some.2 ⟨rfl, he, forall_stepper.2 hleast⟩

theorem firstFit_sixPhase {j : Fin 2} (he : p.pool6[j] = .empty) (hleast : ∀ l : Fin 2, l < j → p.pool6[l] ≠ .empty) :
    p.firstFit .sixPhase = some (.s6 j) :=
  firstFit_eq_some.2 ⟨rfl, he, forall_sixPhase.2 hleast⟩

end scan

/-! ### The marker writes of a claim, pool by pool -/

section claim
variable (p : Pwm) (pin : Pin)

/-- The unit of a three-phase slot is `i div 2` (R121). -/
theorem slotUnit_s3 (i : Fin 4) : slotUnit (.s3 i) = unitOf i := by
  revert i; decide

/-- The two three-phase slots of a unit stand at `2u` and `2u + 1` (R121). -/
theorem phaseSlots_eq (u : UnitId) : phaseSlots u = [.s3 ⟨2 * u.val, by omega⟩, .s3 ⟨2 * u.val + 1, by omega⟩] := by
  revert u; decide

/-- The markers `ALLOC3` writes (R123). -/
theorem claim_s3 (i : Fin 4) : p.claim (.s3 i) pin = { p with
    pool3 := p.pool3.set i (.pin pin)
    pool4 := p.pool4.set (unitOf i) .taken
    pool6 := p.pool6.set (unitOf i) .taken } := by
  rw [Pwm.claim, conf, slotUnit_s3]
  rfl

/-- The markers `ALLOC4` writes (R124). -/
theorem claim_s4 (k : Fin 2) : p.claim (.s4 k) pin = { p with
    pool3 := (p.pool3.set (2 * k.val) .taken).set (2 * k.val + 1) .taken
    pool4 := p.pool4.set k (.pin pin)
    pool6 := p.pool6.set k .taken } := by
  rw [Pwm.claim, conf, phaseSlots_eq]
  rfl

/-- The markers `ALLOC6` writes (R125). -/
theorem claim_s6 (j : Fin 2) : p.claim (.s6 j) pin = { p with
    pool3 := (p.pool3.set (2 * j.val) .taken).set (2 * j.val + 1) .taken
    pool4 := p.pool4.set j .taken
    pool6 := p.pool6.set j (.pin pin) } := by
  rw [Pwm.claim, conf, phaseSlots_eq]
  rfl

end claim

/-! ### The handles (R121, R127) -/

theorem slotHandle_s3 (i : Fin 4) (a b c : Pin) : slotHandle (.s3 i) [a, b, c] =
    ⟨.threePhase, i.val, unitOf i, [phaseOperator i],
      [(a, ⟨unitOf i, 0, phaseOperator i⟩), (b, ⟨unitOf i, 1, phaseOperator i⟩), (c, ⟨unitOf i, 2, phaseOperator i⟩)]⟩ := by
  rw [slotHandle, slotRoutes, slotUnit_s3]
  rfl

theorem slotHandle_s4 (k : Fin 2) (a b c d : Pin) : slotHandle (.s4 k) [a, b, c, d] =
    ⟨.stepper, k.val, k, [.A, .B], [(a, ⟨k, 0, .A⟩), (b, ⟨k, 1, .A⟩), (c, ⟨k, 0, .B⟩), (d, ⟨k, 1, .B⟩)]⟩ := rfl

theorem slotHandle_s6 (j : Fin 2) (a b c d e f : Pin) : slotHandle (.s6 j) [a, b, c, d, e, f] =
    ⟨.sixPhase, j.val, j, [.A, .B],
      [(a, ⟨j, 0, .A⟩), (b, ⟨j, 0, .B⟩), (c, ⟨j, 1, .A⟩), (d, ⟨j, 1, .B⟩), (e, ⟨j, 2, .A⟩), (f, ⟨j, 2, .B⟩)]⟩ := rfl

/-! ### The outcomes of an allocation -/

section allocate
variable {s : State} {T : Topology} {x : Slot} (pin : Pin) (pins : List Pin)

theorem allocate_run (hph : s.pwm.phase = .run) : allocate T pin pins s = .refused .allocationAfterSeal := by
  simp only [allocate, hph]

theorem allocate_exhausted (hph : s.pwm.phase = .setup) (hfit : s.pwm.firstFit T = none) :
    allocate T pin pins s = .next { s with out := answers .allocationFailure } := by
  simp only [allocate, hph, hfit, answer_eq]

theorem allocate_fits (hph : s.pwm.phase = .setup) (hfit : s.pwm.firstFit T = some x) :
    allocate T pin pins s =
      .next { s with pwm := s.pwm.claim x pin, out := answers (.slot (slotHandle x pins)) } := by
  simp only [allocate, hph, hfit, answer_eq, State.setPwm]

end allocate

/-! ### What each operation executes -/

section exec
variable (a b c d e f : Pin) (s : State)

theorem exec_alloc3 : exec (.alloc3 a b c) s = allocate .threePhase a [a, b, c] s := rfl
theorem exec_alloc4 : exec (.alloc4 a b c d) s = allocate .stepper a [a, b, c, d] s := rfl
theorem exec_alloc6 : exec (.alloc6 a b c d e f) s = allocate .sixPhase a [a, b, c, d, e, f] s := rfl

/-- `SEAL` writes the phase and is silent. -/
theorem exec_sealSlots :
    exec .sealSlots s = .next { s with pwm := { s.pwm with phase := .run }, out := silent } := rfl

end exec

/-! ### The obligations -/

/-- Settles O27: the scan of `pool3` fails or finds the least `Empty` slot, whose claim and handle are written out. -/
theorem allocThreePhaseFirstFit : Obligations.AllocThreePhaseFirstFit := by
  intro s a b c
  rw [exec_alloc3]
  refine ⟨allocate_run a _, fun hph hfull => ?_, fun i X hph he hleast hX => ?_⟩
  · exact allocate_exhausted a _ hph (firstFit_threePhase_none.2 hfull)
  · have hop : phaseOperator i = X := hX.symm
    rw [allocate_fits a _ hph (firstFit_threePhase he hleast), claim_s3, slotHandle_s3, hop]

/-- Settles O28: as for `ALLOC3`, with the stepper's pool. -/
theorem allocStepperFirstFit : Obligations.AllocStepperFirstFit := by
  intro s a b c d
  rw [exec_alloc4]
  refine ⟨allocate_run a _, fun hph hfull => ?_, fun k hph he hleast => ?_⟩
  · exact allocate_exhausted a _ hph (firstFit_stepper_none.2 hfull)
  · rw [allocate_fits a _ hph (firstFit_stepper he hleast), claim_s4, slotHandle_s4]

/-- Settles O29: as for `ALLOC3`, with the six-phase pool. -/
theorem allocSixPhaseFirstFit : Obligations.AllocSixPhaseFirstFit := by
  intro s a b c d e f
  rw [exec_alloc6]
  refine ⟨allocate_run a _, fun hph hfull => ?_, fun j hph he hleast => ?_⟩
  · exact allocate_exhausted a _ hph (firstFit_sixPhase_none.2 hfull)
  · rw [allocate_fits a _ hph (firstFit_sixPhase he hleast), claim_s6, slotHandle_s6]

/-- Settles O30: the failing case of the three first-fit statements. -/
theorem allocFailsOnExhaustedPool : Obligations.AllocFailsOnExhaustedPool := by
  intro s hph
  refine ⟨fun hfull a b c => ?_, fun hfull a b c d => ?_, fun hfull a b c d e f => ?_⟩
  · obtain ⟨-, hfails, -⟩ := allocThreePhaseFirstFit s a b c
    exact hfails hph hfull
  · obtain ⟨-, hfails, -⟩ := allocStepperFirstFit s a b c d
    exact hfails hph hfull
  · obtain ⟨-, hfails, -⟩ := allocSixPhaseFirstFit s a b c d e f
    exact hfails hph hfull

/-- Settles O31: the state `SEAL` leaves is in `Run`, where every allocation is refused, and a second `SEAL` rewrites the
phase and the silent output with the values they hold. -/
theorem sealEndsSetup : Obligations.SealEndsSetup := by
  refine ⟨exec_sealSlots, fun s t ht => ?_⟩
  obtain rfl := Host.Outcome.next.inj ((exec_sealSlots s).symm.trans ht)
  refine ⟨exec_sealSlots _, fun a b c => ?_, fun a b c d => ?_, fun a b c d e f => ?_⟩
  · rw [exec_alloc3, allocate_run a _ rfl]
  · rw [exec_alloc4, allocate_run a _ rfl]
  · rw [exec_alloc6, allocate_run a _ rfl]

end Sys2Proof.Machine
end

section
/-! PROOFS. The Timer Configurator: the applied frequency (R135) and the three configuration operations (R136 to R141).
The procedure `CONFIG` they share is described once for every topology and dead zone: what it leaves, and what it makes of
each sub-timer of its unit. -/

namespace Sys2Proof.Machine

open Sys2Proof.Claims (SameHallSide SamePools silent)

/-! ### The applied frequency -/

section normalise
variable {p : Params} {T : Topology}

theorem normalise_unset : normalise p T .unset = p.fDefault := rfl

theorem normalise_hz_zero : normalise p T (.hz 0) = p.fDefault := rfl

theorem normalise_hz {f : Nat} (hf : 1 ≤ f) : normalise p T (.hz f) = min (2 * f) (freqCeiling p T) :=
  if_neg (Nat.one_le_iff_ne_zero.1 hf)

/-- Only the six-phase topology has the lower ceiling (R135). -/
theorem freqCeiling_eq : freqCeiling p T = if T = .sixPhase then p.fCeil6 else p.fCeil34 := by
  cases T <;> rfl

theorem freqCeiling_pos (h6 : 0 < p.fCeil6) (h34 : 0 < p.fCeil34) : 0 < freqCeiling p T := by
  cases T with
  | threePhase => exact h34
  | stepper => exact h34
  | sixPhase => exact h6

/-- There is no lower clamp: the default, the doubled request and the ceiling are each positive (R135). -/
theorem one_le_normalise (hd : 0 < p.fDefault) (hc : 0 < freqCeiling p T) (req : FreqReq) : 1 ≤ normalise p T req := by
  cases req with
  | unset => exact hd
  | hz f =>
    cases f with
    | zero => exact hd
    | succ n =>
      rw [normalise_hz n.succ_pos]
      exact le_min (by omega) hc

end normalise

/-! ### What each operation executes -/

section exec
variable (u : UnitId) (req : FreqReq) (s : State)

theorem exec_config3 : exec (.config3 u req) s = .next (configure .threePhase u req .absent s) := rfl
theorem exec_config4 : exec (.config4 u req) s = .next (configure .stepper u req .absent s) := rfl

theorem exec_config6 (dz : DeadZone) : exec (.config6 u req dz) s = .next (configure .sixPhase u req dz s) := rfl

/-- `CONFIG3` and `CONFIG4` differ in nothing but the topology tag (R138). -/
theorem exec_config3_or_config4 {T : Topology} (hT : T = .threePhase ∨ T = .stepper) :
    exec (if T = .threePhase then .config3 u req else .config4 u req) s = .next (configure T u req .absent s) := by
  obtain rfl | rfl := hT
  · exact exec_config3 u req s
  · exact exec_config4 u req s

end exec

/-! ### The registers of one sub-timer -/

/-- `program` writes the counting mode, the frequency and the duty mode (R136). -/
theorem program_eq (t : SubTimer) (fa : Nat) :
    t.program fa = { t with mode := .upDown, freq := fa, dutyMode := .activeHigh } := rfl

/-- With no dead zone the dead-time registers stay as they are (R140). -/
theorem applyDeadZone_absent (t : SubTimer) (fa : Nat) : t.applyDeadZone fa .absent = t := rfl

/-- The dead time is the fraction `z` of a counter period of `10^7 / fa` ticks, the same on both edges (R140). -/
theorem applyDeadZone_frac (t : SubTimer) (fa : Nat) (z : Rat) : t.applyDeadZone fa (.frac z) =
    { t with dtMode := .complementary, dtRise := (10 ^ 7 / (fa : Rat)) * z, dtFall := (10 ^ 7 / (fa : Rat)) * z } := by
  have hdt : deadTime fa z = (10 ^ 7 / (fa : Rat)) * z := by rw [deadTime]; norm_num
  rw [SubTimer.applyDeadZone, SubTimer.setDeadTime, hdt]

/-! ### What `CONFIG` leaves and what it writes -/

section configure
variable (T : Topology) (u : UnitId) (req : FreqReq) (dz : DeadZone) (s : State)

theorem configure_pwm : (configure T u req dz s).pwm =
    s.pwm.setUnit u (s.pwm.units[u].configure (normalise s.params T req) dz) := rfl

theorem configure_out : (configure T u req dz s).out = silent := rfl

theorem configure_sameHallSide : SameHallSide s (configure T u req dz s) := ⟨rfl, rfl, rfl, rfl, rfl⟩

theorem configure_samePools : SamePools s (configure T u req dz s) := ⟨rfl, rfl, rfl, rfl⟩

/-- `CONFIG` leaves its unit aligned, whatever it was before (R141). -/
theorem configure_aligns_unit : ((configure T u req dz s).pwm.units[u]).aligned = true := by
  rw [configure_pwm, setUnit_units, if_pos rfl, configure_aligned]

/-- A unit other than the operand keeps its registers. -/
theorem configure_other_unit (v : UnitId) (hv : v ≠ u) :
    (configure T u req dz s).pwm.units[v] = s.pwm.units[v] := by
  rw [configure_pwm, setUnit_units, if_neg hv]

/-- Every sub-timer of the unit is programmed from its own registers with the one applied frequency (R136, R140). -/
theorem configure_unit_subTimer (k : TmrId) : (configure T u req dz s).pwm.subTimer u k =
    ((s.pwm.subTimer u k).program (normalise s.params T req)).applyDeadZone (normalise s.params T req) dz := by
  rw [Pwm.subTimer, configure_pwm, setUnit_units, if_pos rfl, configure_subTimer, Pwm.subTimer]

end configure

/-! ### The obligations -/

/-- Settles O41: the sub-timers by what `CONFIG` makes of them, with and without a dead zone; the rest is its frame. -/
theorem configSixProgramsUnitAndDeadTime : Obligations.ConfigSixProgramsUnitAndDeadTime := by
  intro s u req dz
  refine ⟨configure .sixPhase u req dz s, exec_config6 u req s dz, configure_sameHallSide .., configure_samePools ..,
    configure_out .., configure_aligns_unit .., configure_other_unit .sixPhase u req dz s, fun k => ?_⟩
  rw [configure_unit_subTimer]
  cases dz with
  | absent => rw [applyDeadZone_absent, program_eq]
  | frac z => rw [applyDeadZone_frac, program_eq]

/-- Settles O40: `CONFIG` without a dead zone, for either topology. -/
theorem configThreeAndFourProgramUnit : Obligations.ConfigThreeAndFourProgramUnit := by
  intro s u req T hT
  refine ⟨configure T u req .absent s, exec_config3_or_config4 u req s hT, configure_sameHallSide ..,
    configure_samePools .., configure_out .., configure_aligns_unit ..,
    configure_other_unit T u req .absent s, fun k => ?_⟩
  rw [configure_unit_subTimer, applyDeadZone_absent, program_eq]

/-- Settles O39: the branches of `normalise`, and the bound, which needs the higher ceiling positive as well. -/
theorem frequencyNormalised : Obligations.FrequencyNormalised := by
  intro p T
  refine ⟨normalise_unset, normalise_hz_zero, fun f hf => ?_, fun hd h6 h34 req => ?_⟩
  · rw [normalise_hz hf, freqCeiling_eq]
  · exact one_le_normalise hd (freqCeiling_pos h6 (h6.trans h34)) req

end Sys2Proof.Machine
end

section
/-! PROOFS. The Duty-Cycle Writer: the lookup (R150) and the three duty writes (R152 to R155). The duty writes share one
procedure, described once for every topology: on a miss it is silent, on a hit it changes the duty registers of the slot's
routes and nothing else. What each slot's routes then hold is a statement about its row of R121. -/

namespace Sys2Proof.Machine

open Sys2Proof.Claims (unitOf silent SameHallSide SamePools SameButDuties WritesDuties)

/-! ### The lookup -/

section find
variable {p : Pwm} {key : Pin}

theorem find_eq_some {T : Topology} {x : Slot} : p.find T key = some x ↔
    slotTopology x = T ∧ p.marker x = .pin key
      ∧ ∀ y, slotTopology y = T → slotIndex y < slotIndex x → p.marker y ≠ .pin key := by
  simp [Pwm.find, poolSlots_find?_eq_some]

/-! The same, said of the indices of each pool. -/

theorem find_threePhase_none : p.find .threePhase key = none ↔ ∀ i : Fin 4, p.pool3[i] ≠ .pin key :=
  find_none.trans forall_threePhase

theorem find_stepper_none : p.find .stepper key = none ↔ ∀ k : Fin 2, p.pool4[k] ≠ .pin key :=
  find_none.trans forall_stepper

theorem find_sixPhase_none : p.find .sixPhase key = none ↔ ∀ j : Fin 2, p.pool6[j] ≠ .pin key :=
  find_none.trans forall_sixPhase

theorem find_threePhase {i : Fin 4} (hi : p.pool3[i] = .pin key) (hleast : ∀ j : Fin 4, j < i → p.pool3[j] ≠ .pin key) :
    p.find .threePhase key = some (.s3 i) :=
  find_eq_some.2 ⟨rfl, hi, forall_threePhase.2 hleast⟩

theorem find_stepper {k : Fin 2} (hk : p.pool4[k] = .pin key) (hleast : ∀ j : Fin 2, j < k → p.pool4[j] ≠ .pin key) :
    p.find .stepper key = some (.s4 k) :=
  find_eq_some.2 ⟨rfl, hk, forall_stepper.2 hleast⟩

theorem find_sixPhase {j : Fin 2} (hj : p.pool6[j] = .pin key) (hleast : ∀ l : Fin 2, l < j → p.pool6[l] ≠ .pin key) :
    p.find .sixPhase key = some (.s6 j) :=
  find_eq_some.2 ⟨rfl, hj, forall_sixPhase.2 hleast⟩

end find

/-! ### Writing the registers behind a list of routes -/

section setRoutes
variable (p : Pwm) (r : Route) (q : Rat) (ws : List (Route × Rat)) (v : UnitId) (k : TmrId)

/-- A duty write on one output line, register by register. -/
theorem setRoute_duty (X : Operator) : ((p.setRoute r q).subTimer v k).duty X =
    if (v = r.unit ∧ k = r.tmr) ∧ X = r.op then q else (p.subTimer v k).duty X := by
  rw [setRoute_subTimer, ite_and (P := v = r.unit ∧ k = r.tmr)]
  split
  · rw [setDuty_duty]
  · rfl

theorem sameButDuties_refl (t : SubTimer) : SameButDuties t t := ⟨rfl, rfl, rfl, rfl, rfl, rfl⟩

theorem sameButDuties_trans {a b c : SubTimer} (hab : SameButDuties a b) (hbc : SameButDuties b c) : SameButDuties a c := by
  simp_all [SameButDuties]

theorem setDuty_sameButDuties (t : SubTimer) (X : Operator) : SameButDuties (t.setDuty X q) t := by
  simp [SameButDuties]

theorem setRoute_sameButDuties : SameButDuties ((p.setRoute r q).subTimer v k) (p.subTimer v k) := by
  rw [setRoute_subTimer]
  split
  · exact setDuty_sameButDuties ..
  · exact sameButDuties_refl _

theorem setRoutes_sameButDuties : SameButDuties ((p.setRoutes ws).subTimer v k) (p.subTimer v k) := by
  induction ws generalizing p with
  | nil => exact sameButDuties_refl _
  | cons w ws ih => exact sameButDuties_trans (ih _) (setRoute_sameButDuties p w.1 w.2 v k)

theorem setRoutes_aligned : ((p.setRoutes ws).units[v]).aligned = (p.units[v]).aligned := by
  induction ws generalizing p with
  | nil => rfl
  | cons w ws ih => exact (ih _).trans (setRoute_aligned p v w.1 w.2)

end setRoutes

/-! ### What the duty registers hold after a write to a slot's routes -/

section slotDuties
variable (p : Pwm) (v : UnitId) (k : TmrId) (X : Operator)

/-- The duty registers after the percentages of `duties` went to the routes of slot `x`. -/
def slotDuty (x : Slot) (duties : List Rat) : Rat :=
  ((p.setRoutes ((slotRoutes x).zip (duties.map pct))).subTimer v k).duty X

/-- One route on each sub-timer, all on the slot's one operator (R152). -/
theorem slotDuty_s3 (i : Fin 4) (a b c : Rat) : slotDuty p v k X (.s3 i) [a, b, c] =
    if v = unitOf i ∧ X = phaseOperator i then 100 * (if k = 0 then a else if k = 1 then b else c)
    else (p.subTimer v k).duty X := by
  have hroutes : slotRoutes (.s3 i) = [⟨unitOf i, 0, phaseOperator i⟩, ⟨unitOf i, 1, phaseOperator i⟩,
      ⟨unitOf i, 2, phaseOperator i⟩] := by
    rw [slotRoutes, slotUnit_s3]
  rw [slotDuty, hroutes]
  match k with
  | 0 | 1 | 2 => simp [setRoutes_cons, setRoute_duty, pct, -setRoute_subTimer]

/-- Two routes on each of sub-timers 0 and 1, none on sub-timer 2 (R153). -/
theorem slotDuty_s4 (u : Fin 2) (a b c d : Rat) : slotDuty p v k X (.s4 u) [a, b, c, d] =
    if v = u ∧ k = 0 then 100 * (if X = .A then a else c)
    else if v = u ∧ k = 1 then 100 * (if X = .A then b else d)
    else (p.subTimer v k).duty X := by
  rw [slotDuty, slotRoutes, slotUnit]
  match k, X with
  | 0, .A | 0, .B | 1, .A | 1, .B | 2, .A | 2, .B => simp [setRoutes_cons, setRoute_duty, pct, -setRoute_subTimer]

/-- Both operators of every sub-timer, each sub-timer with its phase's duty (R154). -/
theorem slotDuty_s6 (u : Fin 2) (a b c : Rat) : slotDuty p v k X (.s6 u) [a, a, b, b, c, c] =
    if v = u then 100 * (if k = 0 then a else if k = 1 then b else c) else (p.subTimer v k).duty X := by
  rw [slotDuty, slotRoutes, slotUnit]
  match k, X with
  | 0, .A | 0, .B | 1, .A | 1, .B | 2, .A | 2, .B => simp [setRoutes_cons, setRoute_duty, pct, -setRoute_subTimer]

end slotDuties

/-! ### The outcomes of a duty write -/

section writeDuties
variable {s : State} {T : Topology} {key : Pin} {x : Slot} (duties : List Rat)

theorem writeDuties_miss (hfind : s.pwm.find T key = none) : writeDuties T key duties s = { s with out := silent } := by
  rw [writeDuties, hfind]
  rfl

theorem writeDuties_hit (hfind : s.pwm.find T key = some x) : writeDuties T key duties s =
    (s.setPwm (s.pwm.setRoutes ((slotRoutes x).zip (duties.map pct)))).answer .nothing := by
  rw [writeDuties, hfind]

/-- A hit writes the duty registers of the slot found and nothing else (R152 to R154). -/
theorem writeDuties_writesDuties (hfind : s.pwm.find T key = some x) :
    WritesDuties s (writeDuties T key duties s) (fun v k X => slotDuty s.pwm v k X x duties) := by
  rw [writeDuties_hit duties hfind]
  exact ⟨⟨rfl, rfl, rfl, rfl, rfl⟩, ⟨setRoutes_pool3 .., setRoutes_pool4 .., setRoutes_pool6 .., setRoutes_phase ..⟩, rfl,
    setRoutes_aligned s.pwm _, fun v k => ⟨setRoutes_sameButDuties s.pwm _ v k, fun _ => rfl⟩⟩

end writeDuties

/-! ### What each operation executes -/

section exec
variable (key : Pin) (s : State)

theorem exec_write3 (dA dB dC : Rat) :
    exec (.write3 key dA dB dC) s = .next (writeDuties .threePhase key [dA, dB, dC] s) := rfl

theorem exec_write4 (d1A d1B d2A d2B : Rat) :
    exec (.write4 key d1A d1B d2A d2B) s = .next (writeDuties .stepper key [d1A, d1B, d2A, d2B] s) := rfl

theorem exec_write6 (dA dB dC : Rat) :
    exec (.write6 key dA dB dC) s = .next (writeDuties .sixPhase key [dA, dA, dB, dB, dC, dC] s) := rfl

end exec

/-! ### The obligations -/

/-- Settles O43: a scan in index order answers the least match, and nothing when there is none. -/
theorem findIsLeastMatch : Obligations.FindIsLeastMatch := fun _ _ _ => ⟨fun _ => find_eq_some, find_none⟩

/-- Settles O47: in each pool a miss of the scan is a miss of the write. -/
theorem writeMissIsSilent : Obligations.WriteMissIsSilent := by
  refine fun s key d₁ d₂ d₃ d₄ => ⟨fun h3 => ?_, fun h4 => ?_, fun h6 => ?_⟩
  · rw [exec_write3, writeDuties_miss _ (find_threePhase_none.2 h3)]
  · rw [exec_write4, writeDuties_miss _ (find_stepper_none.2 h4)]
  · rw [exec_write6, writeDuties_miss _ (find_sixPhase_none.2 h6)]

/-- Settles O44: the miss is O47's; a hit writes the three routes of the slot, all on its one operator. -/
theorem writeThreeSetsSlotDuties : Obligations.WriteThreeSetsSlotDuties := by
  intro s key dA dB dC
  obtain ⟨hmiss, -, -⟩ := writeMissIsSilent s key dA dB dC 0
  refine ⟨hmiss, fun i hi hleast => ⟨_, exec_write3 key s dA dB dC, ?_⟩⟩
  have hwrites := writeDuties_writesDuties [dA, dB, dC] (find_threePhase hi hleast)
  simp only [slotDuty_s3] at hwrites
  exact hwrites

/-- Settles O45: the miss is O47's; a hit writes the four routes of the slot. -/
theorem writeFourSetsSlotDuties : Obligations.WriteFourSetsSlotDuties := by
  intro s key d1A d1B d2A d2B
  obtain ⟨-, hmiss, -⟩ := writeMissIsSilent s key d1A d1B d2A d2B
  refine ⟨hmiss, fun u hu hleast => ⟨_, exec_write4 key s d1A d1B d2A d2B, ?_⟩⟩
  simpa only [slotDuty_s4] using writeDuties_writesDuties [d1A, d1B, d2A, d2B] (find_stepper hu hleast)

/-- Settles O46: the miss is O47's; a hit writes the six routes of the slot, each phase's duty twice. -/
theorem writeSixSetsSlotDuties : Obligations.WriteSixSetsSlotDuties := by
  intro s key dA dB dC
  obtain ⟨-, -, hmiss⟩ := writeMissIsSilent s key dA dB dC 0
  refine ⟨hmiss, fun u hu hleast => ⟨_, exec_write6 key s dA dB dC, ?_⟩⟩
  simpa only [slotDuty_s6] using writeDuties_writesDuties [dA, dA, dB, dB, dC, dC] (find_sixPhase hu hleast)

end Sys2Proof.Machine
end

section
/-! PROOFS. The pool invariant (R35, R129). On each unit either every marker is `Empty`, or one topology holds the unit
and the slots of the other two are `Taken`; with the conflict set of a slot being the slots of the other topologies on
its unit, the claims on the pools are read off that, and an allocation keeps it. -/

namespace Sys2Proof.Machine

open Sys2Proof.Claims (unitOf pinsOn)

/-! ### The pool invariant, over slots -/

/-- Every slot on the unit is `Empty`. -/
def UnitFree (p : Pwm) (u : UnitId) : Prop := ∀ x : Slot, slotUnit x = u → p.marker x = .empty

/-- The topology holds the unit: one of its slots there is a `Pin` and none is `Taken`, and every slot of another topology
there is `Taken`. -/
structure HeldBy (p : Pwm) (T : Topology) (u : UnitId) : Prop where
  pinned : ∃ x : Slot, slotUnit x = u ∧ slotTopology x = T ∧ isPin (p.marker x) = true
  own : ∀ x : Slot, slotUnit x = u → slotTopology x = T → p.marker x ≠ .taken
  others : ∀ x : Slot, slotUnit x = u → slotTopology x ≠ T → p.marker x = .taken

/-! ### The slot table, row by row (R121, R122) -/

/-- The eight slots (R33). -/
def allSlots : List Slot := [Topology.threePhase, .stepper, .sixPhase].flatMap poolSlots

theorem mem_allSlots (x : Slot) : x ∈ allSlots :=
  List.mem_flatMap.2 ⟨slotTopology x, by cases slotTopology x <;> simp, (mem_poolSlots x _).2 rfl⟩

/-- The conflict set of a slot is what the other topologies have on its unit. -/
theorem mem_conf_iff (x y : Slot) : y ∈ conf x ↔ slotTopology x ≠ slotTopology y ∧ slotUnit x = slotUnit y := by
  have table : ∀ x ∈ allSlots, ∀ y ∈ allSlots,
      (y ∈ conf x ↔ slotTopology x ≠ slotTopology y ∧ slotUnit x = slotUnit y) := by decide
  exact table x (mem_allSlots x) y (mem_allSlots y)

/-- Slots of two topologies share an operator: but for the three-phase slots, each has both. -/
theorem exists_common_operator {x y : Slot} (h : slotTopology x ≠ slotTopology y) :
    ∃ X : Operator, X ∈ slotOperators x ∧ X ∈ slotOperators y := by
  have table : ∀ x ∈ allSlots, ∀ y ∈ allSlots, slotTopology x ≠ slotTopology y →
      ∃ X ∈ slotOperators x, X ∈ slotOperators y := by decide
  exact table x (mem_allSlots x) y (mem_allSlots y) h

/-- A slot is known by its topology, its unit and any of its operators. -/
theorem slot_eq {x y : Slot} {X : Operator} (hT : slotTopology x = slotTopology y) (hu : slotUnit x = slotUnit y)
    (hx : X ∈ slotOperators x) (hy : X ∈ slotOperators y) : x = y := by
  have table : ∀ x ∈ allSlots, ∀ y ∈ allSlots, slotTopology x = slotTopology y → slotUnit x = slotUnit y →
      ∀ X ∈ slotOperators x, X ∈ slotOperators y → x = y := by decide
  exact table x (mem_allSlots x) y (mem_allSlots y) hT hu X hx hy

/-- The routes of a slot lie on its unit, at its operators. -/
theorem mem_slotRoutes {x : Slot} {r : Route} (h : r ∈ slotRoutes x) :
    r.unit = slotUnit x ∧ r.op ∈ slotOperators x := by
  have table : ∀ x ∈ allSlots, ∀ r ∈ slotRoutes x, r.unit = slotUnit x ∧ r.op ∈ slotOperators x := by decide
  exact table x (mem_allSlots x) r h

theorem conf_s3 (i : Fin 4) : conf (.s3 i) = [.s4 (unitOf i), .s6 (unitOf i)] := by rw [conf, slotUnit_s3]

/-- Settles O34: the rows of R122 written out; the rule behind them is that other topologies on the unit collide. -/
theorem conflictSetsFromSlotTable : Obligations.ConflictSetsFromSlotTable := by
  refine ⟨⟨conf_s3, fun k => ?_, fun j => ?_⟩, fun x y => ?_, conf_symm⟩
  · rw [conf, phaseSlots_eq]; rfl
  · rw [conf, phaseSlots_eq]; rfl
  · rw [mem_conf_iff]
    exact ⟨fun ⟨hT, hu⟩ => ⟨hT, hu, exists_common_operator hT⟩, fun ⟨hT, hu, _⟩ => ⟨hT, hu⟩⟩

/-! ### The invariant of Safety.lean, read over slots -/

section invariant
variable {p q : Pwm} {T : Topology} {u : UnitId} {x y : Slot}

theorem mem_slotsOn : x ∈ slotsOn T u ↔ slotTopology x = T ∧ slotUnit x = u := by
  simp [slotsOn, mem_poolSlots]

theorem allMarked_iff {m : Marker} :
    allMarked p T u m = true ↔ ∀ x : Slot, slotTopology x = T → slotUnit x = u → p.marker x = m := by
  simp [allMarked, mem_slotsOn]

theorem holds_iff : holds p T u = true ↔
    (∃ x : Slot, slotUnit x = u ∧ slotTopology x = T ∧ isPin (p.marker x) = true)
      ∧ ∀ x : Slot, slotUnit x = u → slotTopology x = T → p.marker x ≠ .taken := by
  simp only [holds, Bool.and_eq_true, List.any_eq_true, List.all_eq_true, mem_slotsOn, decide_eq_true_eq]
  exact and_congr ⟨fun ⟨x, ⟨hT, hu⟩, hp⟩ => ⟨x, hu, hT, hp⟩, fun ⟨x, hu, hT, hp⟩ => ⟨x, ⟨hT, hu⟩, hp⟩⟩
    ⟨fun h x hu hT => h x ⟨hT, hu⟩, fun h x hx => h x hx.2 hx.1⟩

/-- The three topologies' slots on a unit are all its slots. -/
theorem allMarked_empty_iff_unitFree :
    (allMarked p .threePhase u .empty && allMarked p .stepper u .empty && allMarked p .sixPhase u .empty) = true
      ↔ UnitFree p u := by
  simp only [Bool.and_eq_true, allMarked_iff, UnitFree]
  refine ⟨fun ⟨⟨h3, h4⟩, h6⟩ x hu => ?_, fun h => ⟨⟨fun x _ => h x, fun x _ => h x⟩, fun x _ => h x⟩⟩
  cases hT : slotTopology x with
  | threePhase => exact h3 x hT hu
  | stepper => exact h4 x hT hu
  | sixPhase => exact h6 x hT hu

/-- A topology holds a unit when it does so by its own slots and the two other topologies are `Taken` there. -/
theorem holds_and_taken_iff_heldBy {T₁ T₂ : Topology} (hT : ∀ S : Topology, S ≠ T ↔ S = T₁ ∨ S = T₂) :
    (holds p T u && allMarked p T₁ u .taken && allMarked p T₂ u .taken) = true ↔ HeldBy p T u := by
  simp only [Bool.and_eq_true, allMarked_iff, holds_iff]
  constructor
  · rintro ⟨⟨⟨hpin, hown⟩, h1⟩, h2⟩
    exact ⟨hpin, hown, fun x hu hx => ((hT _).1 hx).elim (h1 x · hu) (h2 x · hu)⟩
  · rintro ⟨hpin, hown, hothers⟩
    exact ⟨⟨⟨hpin, hown⟩, fun x hx hu => hothers x hu ((hT _).2 (.inl hx))⟩,
      fun x hx hu => hothers x hu ((hT _).2 (.inr hx))⟩

theorem unitOk_iff_free_or_held : unitOk p u = true ↔ UnitFree p u ∨ ∃ T, HeldBy p T u := by
  rw [unitOk, Bool.or_eq_true, Bool.or_eq_true, Bool.or_eq_true, allMarked_empty_iff_unitFree,
    holds_and_taken_iff_heldBy (by rintro ⟨⟩ <;> decide), holds_and_taken_iff_heldBy (by rintro ⟨⟩ <;> decide),
    holds_and_taken_iff_heldBy (by rintro ⟨⟩ <;> decide)]
  constructor
  · rintro (((h | h) | h) | h)
    · exact .inl h
    · exact .inr ⟨_, h⟩
    · exact .inr ⟨_, h⟩
    · exact .inr ⟨_, h⟩
  · rintro (h | ⟨T, h⟩)
    · exact .inl (.inl (.inl h))
    · cases T with
      | threePhase => exact .inl (.inl (.inr h))
      | stepper => exact .inl (.inr h)
      | sixPhase => exact .inr h

theorem pwmOk_iff : pwmOk p = true ↔ ∀ u, UnitFree p u ∨ ∃ T, HeldBy p T u := by
  simp only [pwmOk, Bool.and_eq_true, unitOk_iff_free_or_held, Fin.forall_fin_two]

/-- The invariant speaks of the markers only. -/
theorem pwmOk_congr (h : ∀ x, q.marker x = p.marker x) (hp : pwmOk p = true) : pwmOk q = true := by
  rw [pwmOk_iff] at hp ⊢
  refine fun u => (hp u).imp (fun hfree x hx => (h x).trans (hfree x hx)) fun ⟨T, hpin, hown, hothers⟩ =>
    ⟨T, ?_, ?_, ?_⟩
  · simpa only [h] using hpin
  · simpa only [h] using hown
  · simpa only [h] using hothers

/-! ### What the invariant says of one slot -/

/-- A slot with a `Pin` is of the topology that holds its unit. -/
theorem heldBy_of_isPin (hp : pwmOk p = true) (hx : isPin (p.marker x) = true) :
    HeldBy p (slotTopology x) (slotUnit x) := by
  rcases pwmOk_iff.1 hp (slotUnit x) with hfree | ⟨T, hheld⟩
  · simp [hfree x rfl] at hx
  · by_cases hT : slotTopology x = T
    · exact hT ▸ hheld
    · simp [hheld.others x rfl hT] at hx

/-- Beside an `Empty` slot no slot of its topology is `Taken`, and none of another topology is a `Pin`. -/
theorem of_marker_empty (hp : pwmOk p = true) (hx : p.marker x = .empty) (hu : slotUnit y = slotUnit x) :
    (slotTopology y = slotTopology x → p.marker y ≠ .taken)
      ∧ (slotTopology y ≠ slotTopology x → p.marker y = .empty ∨ p.marker y = .taken) := by
  rcases pwmOk_iff.1 hp (slotUnit x) with hfree | ⟨T, hheld⟩
  · exact ⟨fun _ => by simp [hfree y hu], fun _ => .inl (hfree y hu)⟩
  · have hT : slotTopology x = T := by
      by_contra hne
      simp [hheld.others x rfl hne] at hx
    subst hT
    exact ⟨hheld.own y hu, fun hne => .inr (hheld.others y hu hne)⟩

/-! ### What an allocation makes of the markers -/

variable (pin : Pin)

/-- A claim of an `Empty` slot moves `Empty` markers only (R35). -/
theorem claim_marker_cases (hp : pwmOk p = true) (hx : p.marker x = .empty) (y : Slot) :
    (p.claim x pin).marker y = p.marker y
      ∨ (p.marker y = .empty ∧ ((p.claim x pin).marker y = .taken ∨ isPin ((p.claim x pin).marker y) = true)) := by
  rw [claim_marker]
  split
  · next hconf =>
    obtain ⟨hT, hu⟩ := (mem_conf_iff x y).1 hconf
    obtain ⟨-, hothers⟩ := of_marker_empty hp hx hu.symm
    rcases hothers hT.symm with he | ht
    · exact .inr ⟨he, .inl rfl⟩
    · exact .inl ht.symm
  · split
    · next hy => exact .inr ⟨hy ▸ hx, .inr rfl⟩
    · exact .inl rfl

/-- A claim of an `Empty` slot leaves its unit held by its topology. -/
theorem claim_heldBy (hp : pwmOk p = true) (hx : p.marker x = .empty) :
    HeldBy (p.claim x pin) (slotTopology x) (slotUnit x) where
  pinned := ⟨x, rfl, rfl, by rw [claim_marker, if_neg (not_mem_conf_self x), if_pos rfl, isPin_pin]⟩
  own y hu hT := by
    rw [claim_marker, if_neg fun hconf => ((mem_conf_iff x y).1 hconf).1 hT.symm]
    split
    · simp
    · exact (of_marker_empty hp hx hu).1 hT
  others y hu hT := by rw [claim_marker, if_pos ((mem_conf_iff x y).2 ⟨Ne.symm hT, hu.symm⟩)]

theorem claim_marker_other_unit (hu : slotUnit y ≠ slotUnit x) : (p.claim x pin).marker y = p.marker y := by
  rw [claim_marker, if_neg fun hconf => hu ((mem_conf_iff x y).1 hconf).2.symm,
    if_neg fun hy => hu (congrArg slotUnit hy)]

/-- An allocation keeps the pool invariant (R129). -/
theorem claim_pwmOk (hp : pwmOk p = true) (hx : p.marker x = .empty) : pwmOk (p.claim x pin) = true := by
  rw [pwmOk_iff]
  intro u
  by_cases hu : u = slotUnit x
  · exact .inr ⟨_, hu ▸ claim_heldBy pin hp hx⟩
  · have hsame {y : Slot} (hy : slotUnit y = u) : (p.claim x pin).marker y = p.marker y :=
      claim_marker_other_unit pin (hy ▸ hu)
    refine (pwmOk_iff.1 hp u).imp (fun hfree y hy => (hsame hy).trans (hfree y hy)) fun ⟨T, hheld⟩ => ⟨T, ?_, ?_, ?_⟩
    · obtain ⟨y, hy, hT, hpin⟩ := hheld.pinned
      exact ⟨y, hy, hT, by rwa [hsame hy]⟩
    · exact fun y hy hT => by rw [hsame hy]; exact hheld.own y hy hT
    · exact fun y hy hT => by rw [hsame hy]; exact hheld.others y hy hT

end invariant

/-! ### The obligations on the pools -/

/-- Settles O35: each of the two slots is of the topology that holds the unit. -/
theorem unitHeldByOneTopology : Obligations.UnitHeldByOneTopology := by
  intro p x y hp hu hx hy
  by_contra hT
  have htaken := (heldBy_of_isPin hp hx).others y hu.symm (Ne.symm hT)
  simp [htaken] at hy

/-- A topology with a `Pin` on the unit shuts the others out. -/
theorem pinsOn_eq_zero {p : Pwm} (hp : pwmOk p = true) {T S : Topology} {u : UnitId} (hpos : 0 < pinsOn p T u)
    (hS : S ≠ T) : pinsOn p S u = 0 := by
  obtain ⟨x, hmem, hx⟩ := List.countP_pos_iff.1 hpos
  obtain ⟨hxT, hxu⟩ := mem_slotsOn.1 hmem
  refine List.countP_eq_zero.2 fun y hy hpin => hS ?_
  obtain ⟨hyS, hyu⟩ := mem_slotsOn.1 hy
  rw [← hyS, ← hxT]
  exact unitHeldByOneTopology p y x hp (hyu.trans hxu.symm) hpin hx

theorem pinsOn_le (p : Pwm) (T : Topology) (u : UnitId) : pinsOn p T u ≤ (slotsOn T u).length := List.countP_le_length

/-- Settles O37: a unit has two, one and one slots, and those with a `Pin` are of one topology. -/
theorem allocationCapacity : Obligations.AllocationCapacity := by
  intro p hp
  have hunit (u : UnitId) : pinsOn p .threePhase u ≤ 2 ∧ pinsOn p .stepper u ≤ 1 ∧ pinsOn p .sixPhase u ≤ 1
      ∧ (0 < pinsOn p .stepper u → pinsOn p .threePhase u = 0 ∧ pinsOn p .sixPhase u = 0)
      ∧ (0 < pinsOn p .sixPhase u → pinsOn p .threePhase u = 0 ∧ pinsOn p .stepper u = 0) := by
    have hslots : ∀ u : UnitId, (slotsOn .threePhase u).length = 2 ∧ (slotsOn .stepper u).length = 1
      ∧ (slotsOn .sixPhase u).length = 1 := by decide
    obtain ⟨h3, h4, h6⟩ := hslots u
    exact ⟨h3 ▸ pinsOn_le .., h4 ▸ pinsOn_le .., h6 ▸ pinsOn_le ..,
      fun hpos => ⟨pinsOn_eq_zero hp hpos (by decide), pinsOn_eq_zero hp hpos (by decide)⟩,
      fun hpos => ⟨pinsOn_eq_zero hp hpos (by decide), pinsOn_eq_zero hp hpos (by decide)⟩⟩
  refine ⟨hunit, ?_⟩
  have h0 := hunit 0
  have h1 := hunit 1
  omega

/-- Settles O48: a common route would put both slots on one unit, hence in one topology, with a common operator. -/
theorem allocatedSlotsHaveDisjointRoutes : Obligations.AllocatedSlotsHaveDisjointRoutes := by
  intro p x y r hp hne hx hy hrx hry
  obtain ⟨hux, hopx⟩ := mem_slotRoutes hrx
  obtain ⟨huy, hopy⟩ := mem_slotRoutes hry
  have hu : slotUnit x = slotUnit y := hux.symm.trans huy
  exact hne (slot_eq (unitHeldByOneTopology p x y hp hu hx hy) hu hopx hopy)

end Sys2Proof.Machine
end

section
/-! PROOFS. The decoder (R62 to R65, R72) and how a step on a presented command ends (R164, U10, U11). An assigned code
reads a unit operand, or a list of pin operands, or nothing that can be refused; the step's refusals are read off that. -/

namespace Sys2Proof.Machine

open Sys2Proof.Claims (assignedCodes unitCodes pinOperands)

/-! ### The group of a code selects its decoder -/

section groups
variable {code : Byte} {p : Ports}

theorem decode_sect : decode ⟨0x00, p⟩ = .ok (.sect p.r) := by
  simp only [decode]; rfl

theorem decode_hallSetup (hg : (codeGroup code).toNat = 1) : decode ⟨code, p⟩ = decodeHallSetup code p := by
  simp only [decode, hg]

theorem decode_hallQuery (hg : (codeGroup code).toNat = 2) : decode ⟨code, p⟩ = decodeHallQuery code p := by
  simp only [decode, hg]

theorem decode_registry (hg : (codeGroup code).toNat = 3) : decode ⟨code, p⟩ = decodeRegistry code p := by
  simp only [decode, hg]

theorem decode_timer (hg : (codeGroup code).toNat = 4) : decode ⟨code, p⟩ = decodeTimer code p := by
  simp only [decode, hg]

theorem decode_duty (hg : (codeGroup code).toNat = 5) : decode ⟨code, p⟩ = decodeDuty code p := by
  simp only [decode, hg]

end groups

/-! ### Every operation is read back -/

/-- Settles O1: in each group the ports that can be refused, pins and units, hold values of their operands' types, which
read back; of the other ports nothing is checked. -/
theorem decodeOfEncode : Obligations.DecodeOfEncode := by
  intro i
  cases i with
  | sect => exact decode_sect
  | hallInit | cbAttach | cbDetach | irqAttachA | irqAttachB | irqAttachC | edgeA | edgeB | edgeC =>
    rw [encode, Instr.code, decode_hallSetup rfl]; rfl
  | getAngle | getVelocity | needsZeroSearch | hasAbsZero | zeroRel | zeroAbs | rdLevels | rdRaw | rdSector | rdDir | rdRot
  | rdTs | rdIvl | rdEdges =>
    rw [encode, Instr.code, decode_hallQuery rfl]; rfl
  | alloc3 | alloc4 | alloc6 | sealSlots =>
    rw [encode, Instr.code, decode_registry rfl]
    simp [decodeRegistry, Instr.ports, codeFn, portPin_nat, bind, Except.bind]
  | config3 | config4 | config6 =>
    rw [encode, Instr.code, decode_timer rfl]
    simp [decodeTimer, Instr.ports, codeFn, portUnit_val, bind, Except.bind]
  | write3 | write4 | write6 =>
    rw [encode, Instr.code, decode_duty rfl]
    simp [decodeDuty, Instr.ports, codeFn, portPin_nat, bind, Except.bind]

/-! ### Which codes are assigned -/

/-- The 34 codes of R64 are the functions assigned in each group. -/
theorem mem_assignedCodes_iff (code : Byte) :
    code ∈ assignedCodes ↔ (codeFn code).toNat ∈ assignedFns (codeGroup code).toNat := by
  revert code; decide

theorem decode_of_not_assigned {c : Command} (h : c.code ∉ assignedCodes) :
    decode c = .error (.reservedCode c.code) :=
  decode_unassigned c ((mem_assignedCodes_iff c.code).not.1 h)

theorem decode_answersCode {c : Command} (h : c.code ∈ assignedCodes) : answersCode c.code (decode c) :=
  decode_assigned c ((mem_assignedCodes_iff c.code).1 h)

/-- Settles O2: an answer to an assigned code is no reserved-code refusal. -/
theorem reservedCodesRefused : Obligations.ReservedCodesRefused := by
  refine fun c => ⟨fun hd hassigned => ?_, decode_of_not_assigned⟩
  have hanswer := decode_answersCode hassigned
  rw [hd] at hanswer
  exact hanswer

/-- Settles O3: only an assigned code decodes, and its answer carries it. -/
theorem decodedCodeIsTheOperations : Obligations.DecodedCodeIsTheOperations := by
  intro c i hd
  by_cases hassigned : c.code ∈ assignedCodes
  · have hanswer := decode_answersCode hassigned
    rw [hd] at hanswer
    exact hanswer.symm
  · cases hd.symm.trans (decode_of_not_assigned hassigned)

/-- Settles O4: the six words, evaluated. -/
theorem wordsDecode : Obligations.WordsDecode := ⟨rfl, rfl, rfl, rfl, rfl, rfl⟩

/-! ### Which operands are read -/

/-- The codes with a pin operand (R123 to R125, R152 to R154). -/
def pinCodes : List Byte := [0x30, 0x31, 0x32, 0x50, 0x51, 0x52]

theorem pinOperands_eq_nil {code : Byte} (h : code ∉ pinCodes) (p : Ports) : pinOperands code p = [] := by
  have hkey : code ∉ ([0x50, 0x51, 0x52] : List Byte) := fun hmem => h (List.mem_of_mem_drop (i := 3) hmem)
  rw [pinOperands, if_neg (List.ne_of_not_mem_cons h), if_neg, if_neg, if_neg hkey]
  all_goals rintro rfl; exact h (by decide)

/-- A configuration reads the unit port and checks nothing else. -/
theorem decode_unitCode {c : Command} (h : c.code ∈ unitCodes) :
    ∃ f : UnitId → Instr, decode c = portUnit c.ports.unit >>= fun u => .ok (f u) := by
  obtain ⟨code, p⟩ := c
  simp only [unitCodes, List.mem_cons, List.not_mem_nil, or_false] at h
  rcases h with rfl | rfl | rfl
  · exact ⟨fun u => .config3 u p.freq, decode_timer rfl⟩
  · exact ⟨fun u => .config4 u p.freq, decode_timer rfl⟩
  · exact ⟨fun u => .config6 u p.freq p.dz, decode_timer rfl⟩

/-- An allocation or a duty write reads its pin ports in order and checks nothing else. -/
theorem decode_pinCode {c : Command} (h : c.code ∈ pinCodes) :
    ∃ f : List Pin → Instr, decode c = (pinOperands c.code c.ports).mapM portPin >>= fun pins => .ok (f pins) := by
  obtain ⟨code, p⟩ := c
  simp only [pinCodes, List.mem_cons, List.not_mem_nil, or_false] at h
  rcases h with rfl | rfl | rfl | rfl | rfl | rfl
  · refine ⟨fun v => .alloc3 (v.getD 0 0) (v.getD 1 0) (v.getD 2 0), (decode_registry rfl).trans ?_⟩
    simp [pinOperands]; rfl
  · refine ⟨fun v => .alloc4 (v.getD 0 0) (v.getD 1 0) (v.getD 2 0) (v.getD 3 0), (decode_registry rfl).trans ?_⟩
    simp [pinOperands]; rfl
  · refine ⟨fun v => .alloc6 (v.getD 0 0) (v.getD 1 0) (v.getD 2 0) (v.getD 3 0) (v.getD 4 0) (v.getD 5 0),
      (decode_registry rfl).trans ?_⟩
    simp [pinOperands]; rfl
  · refine ⟨fun v => .write3 (v.getD 0 0) p.d0 p.d1 p.d2, (decode_duty rfl).trans ?_⟩
    simp [pinOperands]; rfl
  · refine ⟨fun v => .write4 (v.getD 0 0) p.d0 p.d1 p.d2 p.d3, (decode_duty rfl).trans ?_⟩
    simp [pinOperands]; rfl
  · refine ⟨fun v => .write6 (v.getD 0 0) p.d0 p.d1 p.d2, (decode_duty rfl).trans ?_⟩
    simp [pinOperands]; rfl

/-- The refusals name a unit operand or a pin operand, so a code with neither decodes. -/
theorem decode_plainCode {c : Command} (h : c.code ∈ assignedCodes) (hunit : c.code ∉ unitCodes)
    (hpin : c.code ∉ pinCodes) : ∃ i : Instr, decode c = .ok i := by
  obtain ⟨code, p⟩ := c
  simp only [unitCodes, pinCodes, assignedCodes, List.mem_cons, List.not_mem_nil, or_false] at h hunit hpin
  rcases h with rfl | rfl | rfl | rfl | rfl | rfl | rfl | rfl | rfl | rfl | rfl | rfl | rfl | rfl | rfl | rfl | rfl |
    rfl | rfl | rfl | rfl | rfl | rfl | rfl | rfl | rfl | rfl | rfl | rfl | rfl | rfl | rfl | rfl | rfl
  · exact ⟨_, decode_sect⟩
  iterate 9 exact ⟨_, decode_hallSetup rfl⟩
  iterate 14 exact ⟨_, decode_hallQuery rfl⟩
  iterate 3 simp at hpin
  · exact ⟨_, decode_registry rfl⟩
  iterate 3 simp at hunit
  iterate 3 simp at hpin

/-- The first pin below 0 ends the reading, under its name (U11, log 13). -/
theorem mapM_portPin_of_negative {ports : List Int} {p : Int}
    (h : ports.find? (fun x => decide (x < 0)) = some p) : ports.mapM portPin = .error (.negativePin p) := by
  induction ports with
  | nil => cases h
  | cons q ports ih =>
    by_cases hq : q < 0
    · obtain rfl : q = p := by simpa [hq] using h
      rw [List.mapM_cons, portPin_of_neg hq]; rfl
    · have hrest : ports.find? (fun x => decide (x < 0)) = some p := by simpa [hq] using h
      rw [List.mapM_cons, portPin_of_nonneg (not_lt.1 hq), ih hrest]; rfl

theorem mapM_portPin_of_nonneg {ports : List Int} (h : ∀ p ∈ ports, 0 ≤ p) :
    ports.mapM portPin = .ok (ports.map Int.toNat) := by
  induction ports with
  | nil => rfl
  | cons q ports ih =>
    rw [List.mapM_cons, portPin_of_nonneg (h q List.mem_cons_self), ih fun p hp => h p (List.mem_cons_of_mem q hp)]
    rfl

theorem portUnit_of_out_of_range {u : Int} (h0 : u ≠ 0) (h1 : u ≠ 1) : portUnit u = .error (.unitOutOfRange u) := by
  rw [portUnit, if_neg h0, if_neg h1]

theorem portUnit_of_in_range {u : Int} (h : u = 0 ∨ u = 1) : ∃ v, portUnit u = .ok v := by
  obtain rfl | rfl := h
  · exact ⟨0, rfl⟩
  · exact ⟨1, rfl⟩

/-! ### The refusals -/

theorem decode_unitOutOfRange {c : Command} (h : c.code ∈ unitCodes) (h0 : c.ports.unit ≠ 0) (h1 : c.ports.unit ≠ 1) :
    decode c = .error (.unitOutOfRange c.ports.unit) := by
  obtain ⟨f, hf⟩ := decode_unitCode h
  rw [hf, portUnit_of_out_of_range h0 h1]; rfl

theorem decode_negativePin {c : Command} {p : Int}
    (h : (pinOperands c.code c.ports).find? (fun x => decide (x < 0)) = some p) :
    decode c = .error (.negativePin p) := by
  by_cases hpin : c.code ∈ pinCodes
  · obtain ⟨f, hf⟩ := decode_pinCode hpin
    rw [hf, mapM_portPin_of_negative h]; rfl
  · rw [pinOperands_eq_nil hpin] at h; cases h

/-- An assigned code whose unit and pins are of their types decodes. -/
theorem decode_ok {c : Command} (h : c.code ∈ assignedCodes)
    (hunit : c.code ∈ unitCodes → c.ports.unit = 0 ∨ c.ports.unit = 1)
    (hpins : ∀ p ∈ pinOperands c.code c.ports, 0 ≤ p) : ∃ i : Instr, decode c = .ok i := by
  by_cases hu : c.code ∈ unitCodes
  · obtain ⟨f, hf⟩ := decode_unitCode hu
    obtain ⟨v, hv⟩ := portUnit_of_in_range (hunit hu)
    exact ⟨f v, by rw [hf, hv]; rfl⟩
  · by_cases hp : c.code ∈ pinCodes
    · obtain ⟨f, hf⟩ := decode_pinCode hp
      exact ⟨f _, by rw [hf, mapM_portPin_of_nonneg hpins]; rfl⟩
    · exact decode_plainCode h hu hp

/-- Settles O5: the step's own case of a decoded command. -/
theorem stepRunsDecodedOperation : Obligations.StepRunsDecodedOperation := fun _ _ _ _ _ => step_decoded

/-- Settles O6: each refusal is the decoder's, under the name the step gives it; what the decoder accepts is run. -/
theorem stepRefusesOrIdles : Obligations.StepRefusesOrIdles := by
  refine ⟨fun s c sched rest hi => ⟨fun hreserved => ?_, fun hu h0 h1 => ?_, fun p hp => ?_, fun hcode hu hp => ?_⟩,
    fun s => step_idle, fun s n rest hi hnone => ?_⟩
  · exact step_undecoded hi (decode_of_not_assigned hreserved)
  · exact step_undecoded hi (decode_unitOutOfRange hu h0 h1)
  · exact step_undecoded hi (decode_negativePin hp)
  · obtain ⟨i, hd⟩ := decode_ok hcode hu hp
    exact ⟨i, hd, step_decoded hi hd⟩
  · rw [step_resume hi, resumeQuery_nil (s := { s with inputs := rest }) hnone]

end Sys2Proof.Machine
end

section
/-! PROOFS. The Sector Table's properties (R83), the transition table (R97), and what an edge operation makes of the Hall
registers: which it stores, how far it moves `rot` (R32 f) and the position count (R105), and in which order two edges may
be handled (R52). -/

namespace Sys2Proof.Machine

open Sys2Proof.Claims (edgeOp rawNumber levelsCode)

/-! ### The Sector Table -/

theorem rom_injective : ∀ r q : Raw, ∀ s : Sector, rom r = some s → rom q = some s → r = q := by decide

theorem rom_surjective : ∀ s : Sector, ∃ r : Raw, rom r = some s := by decide

/-- Complementing the three levels moves the sector by half a turn. -/
theorem rom_complement : ∀ (r : Raw) (s : Sector), rom r = some s → rom (7 - r) = some (s + 3) := by decide

theorem rom_adjacent_iff : ∀ (r q : Raw) (s t : Sector), rom r = some s → rom q = some t →
    ((t = s + 1 ∨ s = t + 1) ↔ (r ^^^ q = 1 ∨ r ^^^ q = 2 ∨ r ^^^ q = 4)) := by decide

theorem rom_inverse : [0, 1, 2, 3, 4, 5].map (fun s : Sector =>
    (List.range 8).find? (fun r => rom (BitVec.ofNat 3 r) = some s))
      = [some 1, some 5, some 4, some 6, some 2, some 3] := by decide

/-- Settles O8: the five properties, each evaluated over the eight codes. -/
theorem sectorTableProperties : Obligations.SectorTableProperties :=
  ⟨⟨rom_injective, rom_surjective⟩, rom_none_iff, rom_complement, rom_adjacent_iff, rom_inverse⟩

/-! ### `HALL_INIT` -/

/-- Settles O10: the table's sector replaces the earlier one, and the registers kept agree. -/
theorem hallInitForgetsEarlierRegisters : Obligations.HallInitForgetsEarlierRegisters := by
  intro s t s' t' a b c now hvalid hdir hcb ha hb hc hs ht
  obtain ⟨ns, hns⟩ := Option.ne_none_iff_exists'.1 hvalid
  rw [ofNat_rawNumber] at hns
  rw [exec_hallInit] at hs ht
  obtain rfl := Host.Outcome.next.inj hs
  obtain rfl := Host.Outcome.next.inj ht
  simp [Hall.init, hns, hdir, hcb, ha, hb, hc]

/-! ### The transition table -/

/-- For the opposite natural direction every step has the opposite sign. -/
theorem stepDir_neg (old new : Sector) : stepDir .neg old new = dirFlip (stepDir .pos old new) := by
  revert old new; decide

/-- Settles O14: the 36 cells, evaluated; the other natural direction turns every step round. -/
theorem transitionTable : Obligations.TransitionTable := by
  refine ⟨by decide, fun old new => ⟨?_, ?_⟩⟩
  · rw [stepDir_neg, dirSign_flip]
  · simp only [rotChange, stepDir_neg, dirSign_flip, apply_ite Neg.neg, neg_zero]

/-- The rotation stays exactly when the sectors are three apart or less. -/
theorem rotChange_eq_zero_iff (nat : Dir) (old new : Sector) :
    rotChange nat old new = 0 ↔ ((new.val : Int) - (old.val : Int)).natAbs ≤ 3 := by
  rw [rotChange_eq]
  have hsign : dirSign nat = 1 ∨ dirSign nat = -1 := by cases nat <;> decide
  split <;> [skip; split] <;> omega

/-! ### The Hall registers after an edge operation -/

section edge
variable {s : State} {x : Channel} {lvl : Level} {now : Time}

/-- What an edge operation can do to the Hall registers: nothing, on a channel not attached; store the level and the code;
or, with a valid code, the transition as well (R92, R93, R94). -/
theorem edgePass_hall_cases (x : Channel) (lvl : Level) (now : Time) (s : State) :
    (s.hall.attached x = false ∧ (edgePass x lvl now s).hall = s.hall)
    ∨ (s.hall.attached x = true ∧ rom (s.hall.setLevel x lvl).code = none
      ∧ (edgePass x lvl now s).hall = { s.hall.setLevel x lvl with raw := (s.hall.setLevel x lvl).code })
    ∨ (s.hall.attached x = true ∧ ∃ ns, rom (s.hall.setLevel x lvl).code = some ns
      ∧ (edgePass x lvl now s).hall =
        Hall.transition { s.hall.setLevel x lvl with raw := (s.hall.setLevel x lvl).code } s.params.nat ns now) := by
  cases ha : s.hall.attached x with
  | false => exact .inl ⟨rfl, by rw [edgePass_detached ha, emit_hall]⟩
  | true =>
    cases hc : rom (s.hall.setLevel x lvl).code with
    | none => exact .inr (.inl ⟨rfl, rfl, by rw [edgePass_invalid ha hc, emit_hall, setHall_hall]⟩)
    | some ns => exact .inr (.inr ⟨rfl, ns, rfl, by rw [edgePass_valid ha hc, emit_hall, setHall_hall]⟩)

theorem edgePass_attached_eq (y : Channel) : (edgePass x lvl now s).hall.attached y = s.hall.attached y := by
  rcases edgePass_hall_cases x lvl now s with ⟨-, e⟩ | ⟨-, -, e⟩ | ⟨-, ns, -, e⟩ <;> rw [e]
  · exact setLevel_attached s.hall x lvl y
  · exact setLevel_attached s.hall x lvl y

/-- An edge on an attached channel stores its level and no other. -/
theorem edgePass_level (ha : s.hall.attached x = true) (y : Channel) :
    (edgePass x lvl now s).hall.level y = if y = x then lvl else s.hall.level y := by
  rcases edgePass_hall_cases x lvl now s with ⟨hdet, -⟩ | ⟨-, -, e⟩ | ⟨-, ns, -, e⟩
  · simp [ha] at hdet
  · rw [e]; exact setLevel_level s.hall x lvl y
  · rw [e]; exact setLevel_level s.hall x lvl y

/-- The code is that of the levels stored. -/
theorem edgePass_raw (ha : s.hall.attached x = true) :
    (edgePass x lvl now s).hall.raw = (edgePass x lvl now s).hall.code := by
  rcases edgePass_hall_cases x lvl now s with ⟨hdet, -⟩ | ⟨-, -, e⟩ | ⟨-, ns, -, e⟩
  · simp [ha] at hdet
  · rw [e]; rfl
  · rw [e]; rfl

/-- A valid code is the sector's. -/
theorem edgePass_sector (ha : s.hall.attached x = true) (hvalid : rom (edgePass x lvl now s).hall.raw ≠ none) :
    rom (edgePass x lvl now s).hall.raw = some (edgePass x lvl now s).hall.sector := by
  rcases edgePass_hall_cases x lvl now s with ⟨hdet, -⟩ | ⟨-, hc, e⟩ | ⟨-, ns, hc, e⟩
  · simp [ha] at hdet
  · rw [e] at hvalid; exact absurd hc hvalid
  · rw [e]; exact hc

end edge

/-! ### The obligations on the edge operations -/

/-- Settles O15: only a transition moves `rot`, by the change of R94. -/
theorem edgeMovesRotationByOne : Obligations.EdgeMovesRotationByOne := by
  intro s t x lvl now ht
  rw [exec_edgeOp] at ht
  obtain rfl := Host.Outcome.next.inj ht
  have hstill : s.hall.rot.toInt = (s.hall.rot.toInt + 0).bmod (2 ^ 32) := by
    rw [add_zero, BitVec.toInt_bmod_cancel]
  rcases edgePass_hall_cases x lvl now s with ⟨-, e⟩ | ⟨-, -, e⟩ | ⟨-, ns, -, e⟩ <;> rw [e]
  · exact ⟨0, .inr (.inl rfl), hstill, by simp⟩
  · exact ⟨0, .inr (.inl rfl), by rwa [setLevel_rot], by simp⟩
  · refine ⟨rotChange s.params.nat s.hall.sector ns, rotChange_cases .., ?_, rotChange_eq_zero_iff ..⟩
    simp only [transition_rot, setLevel_rot, setLevel_sector, wrapRot_toInt]

theorem setLevel_same (h : Hall) (x : Channel) : h.setLevel x (h.level x) = h := by cases x <;> rfl

theorem stepDir_self (nat : Dir) (old : Sector) : stepDir nat old old = dirFlip nat := by
  simp [stepDir, sectorDelta]

theorem wrapRot_self (nat : Dir) (rot : Rot) (old : Sector) : wrapRot rot (rotChange nat old old) = rot := by
  simp [wrapRot, rotChange, isWrap, sectorDelta]

/-- Settles O16: the level, the code and the sector stored are those the registers hold already, and a step from a sector
to itself counts against the natural direction. -/
theorem spuriousEdgeCountsAsReverse : Obligations.SpuriousEdgeCountsAsReverse := by
  intro s x now hok ha hvalid
  obtain ⟨hraw, hrom, -⟩ := (hallOk_iff s.hall).1 hok
  have hsector : rom (s.hall.setLevel x (s.hall.level x)).code = some s.hall.sector := by
    rw [setLevel_same, ← hraw]; exact hrom.resolve_left hvalid
  rw [exec_edgeOp, edgePass_valid ha hsector, setLevel_same, ← hraw]
  simp only [Hall.transition, stepDir_self, wrapRot_self]
  rfl

/-- Settles O17: in either order both levels are stored last or kept by the other edge, the code is that of the levels, and
a valid code fixes the sector. -/
theorem nearSimultaneousEdgesAgree : Obligations.NearSimultaneousEdgesAgree := by
  intro s s₁ s₂ t₁ t₂ x y lx ly n m n' m' hxy hx hy hs₁ hs₂ ht₁ ht₂
  rw [exec_edgeOp] at hs₁ hs₂ ht₁ ht₂
  obtain rfl := Host.Outcome.next.inj hs₁
  obtain rfl := Host.Outcome.next.inj hs₂
  obtain rfl := Host.Outcome.next.inj ht₁
  obtain rfl := Host.Outcome.next.inj ht₂
  have hy' : (edgePass x lx n s).hall.attached y = true := (edgePass_attached_eq y).trans hy
  have hx' : (edgePass y ly m' s).hall.attached x = true := (edgePass_attached_eq x).trans hx
  have hlevel (z : Channel) : (edgePass y ly m (edgePass x lx n s)).hall.level z
      = (edgePass x lx n' (edgePass y ly m' s)).hall.level z := by
    rw [edgePass_level hy', edgePass_level hx, edgePass_level hx', edgePass_level hy]
    by_cases hzx : z = x
    · rw [if_neg (hzx ▸ hxy), if_pos hzx, if_pos hzx]
    · rw [if_neg hzx, if_neg hzx]
  have hraw : (edgePass y ly m (edgePass x lx n s)).hall.raw = (edgePass x lx n' (edgePass y ly m' s)).hall.raw := by
    rw [edgePass_raw hy', edgePass_raw hx', code_eq, code_eq, hlevel, hlevel, hlevel]
  refine ⟨hlevel, hraw, fun hvalid => Option.some.inj ?_⟩
  rw [← edgePass_sector hy' hvalid, hraw]
  exact edgePass_sector hx' (hraw ▸ hvalid)

/-- The rotation's change and the sector's, over an adjacent step up. -/
theorem positionChange_up (nat : Dir) (old : Sector) :
    6 * rotChange nat old (old + 1) + (((old + 1 : Sector).val : Int) - (old.val : Int))
      = if nat = .neg ∧ old = 5 then -11 else 1 := by
  revert old; cases nat <;> decide

/-- The rotation's change and the sector's, over an adjacent step down. -/
theorem positionChange_down (nat : Dir) (new : Sector) :
    6 * rotChange nat (new + 1) new + ((new.val : Int) - ((new + 1 : Sector).val : Int))
      = if nat = .neg ∧ new + 1 = 0 then 11 else -1 := by
  revert new; cases nat <;> decide

/-- Away from its ends the rotation register holds the exact sum. -/
theorem wrapRot_toInt_of_lt {rot : Rot} {d : Int} (hd : d = -1 ∨ d = 0 ∨ d = 1) (hlo : -(2 ^ 31 : Int) < rot.toInt)
    (hhi : rot.toInt < 2 ^ 31 - 1) : (wrapRot rot d).toInt = rot.toInt + d := by
  rw [wrapRot_toInt]
  exact Int.bmod_eq_of_le (by omega) (by omega)

/-- Settles O18: the count changes by six times the rotation's change and by the sector's, which the two tables give. -/
theorem positionCountOnAdjacentStep : Obligations.PositionCountOnAdjacentStep := by
  intro s t x lvl now ha hvalid hlo hhi ht
  rw [exec_edgeOp] at ht
  obtain rfl := Host.Outcome.next.inj ht
  obtain ⟨ns, hns⟩ := Option.ne_none_iff_exists'.1 hvalid
  rw [levelsCode_eq_code] at hns
  rw [edgePass_valid ha hns]
  simp only [emit_hall, setHall_hall, transition_sector, transition_rot, setLevel_rot, setLevel_sector, positionCount,
    wrapRot_toInt_of_lt (rotChange_cases ..) hlo hhi]
  refine ⟨fun hup => ?_, fun hdown => ?_⟩
  · have hchange := positionChange_up s.params.nat s.hall.sector
    rw [← hup] at hchange
    omega
  · have hchange := positionChange_down s.params.nat ns
    rw [← hdown] at hchange
    omega

end Sys2Proof.Machine
end

section
/-! PROOFS. The queries as sequences of atomic reads (R47 c, R56, R106, R107, R111). A query that has made its reads in the
states `seen`, in order, is `queryAfter`: what is left to read and what it has read are both given by that list. A slice of
reads lengthens the list, so every schedule and every course of resumptions is one induction. -/

namespace Sys2Proof.Machine

open Sys2Proof.Claims (answers silent angleFormula velocityFormula tornAngle tornVelocity Resumes RunsTorn)

/-! ### The query after its reads in given states -/

/-- The latch after the reads `rs`, in order, each in its state. -/
def latchAfter (l : Latch) : List HallReg → List State → Latch
  | r :: rs, u :: us => latchAfter (l.read r u.hall) rs us
  | [], _ => l
  | _, [] => l

/-- The query of kind `k` and reads `rs` after the reads made in the states `seen`. -/
def queryAfter (k : QueryKind) (rs : List HallReg) (seen : List State) : Query where
  kind := k
  todo := rs.drop seen.length
  latch := latchAfter Latch.clear rs seen

section queryAfter
variable {k : QueryKind} {rs : List HallReg} {seen : List State}

@[simp] theorem latchAfter_nil (l : Latch) : latchAfter l rs [] = l := by cases rs <;> rfl

theorem latchAfter_append (l : Latch) (more : List State) :
    latchAfter l rs (seen ++ more) = latchAfter (latchAfter l rs seen) (rs.drop seen.length) more := by
  induction seen generalizing l rs with
  | nil => simp
  | cons u seen ih =>
    cases rs with
    | nil => cases more <;> rfl
    | cons r rs => exact ih _

/-- The reads of one slice are all made in the one state. -/
theorem latchAfter_replicate (l : Latch) (n : Nat) (u : State) :
    latchAfter l rs (List.replicate n u) = (rs.take n).foldl (fun l r => l.read r u.hall) l := by
  induction n generalizing l rs with
  | zero => simp
  | succ n ih =>
    cases rs with
    | nil => rfl
    | cons r rs => exact ih _

theorem query_eq {q q' : Query} (hk : q.kind = q'.kind) (ht : q.todo = q'.todo) (hl : q.latch = q'.latch) : q = q' := by
  cases q; cases q'; simp_all

/-- A slice of `n` reads in state `u` adds `u` to the states seen, `n` times. -/
theorem advance_queryAfter (n : Nat) (u : State) :
    (queryAfter k rs seen).advance n u.hall = queryAfter k rs (seen ++ List.replicate n u) := by
  refine query_eq (advance_kind ..) ?_ ?_
  · rw [advance_todo]; simp [queryAfter]
  · rw [advance_latch]; simp only [queryAfter, latchAfter_append, latchAfter_replicate]

/-- A slice longer than the reads left makes the reads left. -/
theorem advance_of_length_le {q : Query} {n : Nat} (hn : q.todo.length ≤ n) (h : Hall) :
    q.advance n h = q.advance q.todo.length h := by
  refine query_eq ((advance_kind ..).trans (advance_kind ..).symm) ?_ ?_
  · rw [advance_todo, advance_todo, List.drop_length, List.drop_eq_nil_of_le hn]
  · rw [advance_latch, advance_latch, List.take_length, List.take_of_length_le hn]

/-- The query the operation starts has read nothing. -/
theorem startQuery_eq_queryAfter (k : QueryKind) (sched : Sched) :
    startQuery k sched = queryAfter k (startQuery k sched).todo [] :=
  query_eq rfl rfl (latchAfter_nil _).symm

end queryAfter

/-! ### The course of a query -/

section course
variable {k : QueryKind} {rs : List HallReg} {seen : List State} {left : Nat} {ans : Params → List State → Result}

/-- With `left` reads to make and a slice of `left` or more, the query ends with the result of all its reads. -/
theorem runQuery_queryAfter_ends (hleft : seen.length + left = rs.length) {n : Nat} (hn : left ≤ n) (u : State)
    (hans : ∀ (p : Params) (seen : List State), seen.length = rs.length →
      (queryAfter k rs seen).result p = ans p seen) :
    runQuery n (queryAfter k rs seen) u =
      { u with out := answers (ans u.params (seen ++ List.replicate left u)) } := by
  have htodo : (queryAfter k rs seen).todo.length = left := by simp [queryAfter]; omega
  rw [runQuery_ends (htodo.trans_le hn), advance_of_length_le (htodo.trans_le hn), htodo, advance_queryAfter,
    hans _ _ (by simpa), answer_eq]

/-- With more reads to make than the slice allows, the query stays in progress. -/
theorem runQuery_queryAfter_stays (hleft : seen.length + left = rs.length) {n : Nat} (hn : n < left) (u : State) :
    runQuery n (queryAfter k rs seen) u =
      { u with inflight := queryAfter k rs (seen ++ List.replicate n u) :: u.inflight, out := silent } := by
  rcases runQuery_cases n (queryAfter k rs seen) u with ⟨hdone, -⟩ | ⟨-, e⟩
  · have hlen : (rs.drop seen.length).length ≤ n := List.drop_eq_nil_iff.1 hdone
    rw [List.length_drop] at hlen; omega
  · rw [e, advance_queryAfter, answer_nothing]

/-- Under every list of resumptions, in any states, the query goes on as the states seen say. -/
theorem resumes_queryAfter (hleft : seen.length + left = rs.length)
    (hans : ∀ (p : Params) (seen : List State), seen.length = rs.length →
      (queryAfter k rs seen).result p = ans p seen) (visits : List (State × Nat)) :
    Resumes ans seen left (queryAfter k rs seen) visits := by
  induction visits generalizing seen left with
  | nil => trivial
  | cons visit visits ih =>
    obtain ⟨u, n⟩ := visit
    intro tail ins hq hi
    have hstep : step u = .next (runQuery n (queryAfter k rs seen) { u with inflight := tail, inputs := ins }) := by
      rw [step_resume hi, resumeQuery_cons (s := { u with inputs := ins }) hq]
    have hhere (m : Nat) : queryAfter k rs (seen ++ List.replicate m { u with inflight := tail, inputs := ins })
        = queryAfter k rs (seen ++ List.replicate m u) := by
      rw [← advance_queryAfter, ← advance_queryAfter]
    split
    · next hn =>
      have hend : (seen ++ List.replicate left u).length = rs.length := by simpa
      rw [hstep, runQuery_queryAfter_ends hleft hn _ (ans := fun p seen => (queryAfter k rs seen).result p)
        fun _ _ _ => rfl, hhere, hans _ _ hend]
    · next hn =>
      refine ⟨_, ?_, ih (by simp; omega)⟩
      rw [hstep, runQuery_queryAfter_stays hleft (by omega), hhere]

/-- An operation that starts a query runs it under every slice and every list of resumptions. -/
theorem runsTorn_of_exec {i : Instr} {s : State} (hexec : exec i s = .next (beginQuery k s))
    (hreads : (startQuery k s.sched).todo = rs)
    (hans : ∀ (p : Params) (seen : List State), seen.length = rs.length →
      (queryAfter k rs seen).result p = ans p seen) : RunsTorn i rs.length s ans := by
  have hbegin : exec i s = .next (runQuery s.sched.slice (queryAfter k rs []) s) := by
    rw [hexec, beginQuery, startQuery_eq_queryAfter, hreads]
  have hnil : ([] : List State).length + rs.length = rs.length := Nat.zero_add _
  unfold RunsTorn
  split
  · next hn => rw [hbegin, runQuery_queryAfter_ends hnil hn s hans, List.nil_append]
  · next hn =>
    have hslice : s.sched.slice < rs.length := by omega
    refine ⟨_, ?_, resumes_queryAfter (seen := List.replicate s.sched.slice s) (by simp; omega) hans⟩
    rw [hbegin, runQuery_queryAfter_stays hnil hslice, List.nil_append]

end course

/-! ### What each operation executes -/

section exec
variable (s : State)

theorem exec_getAngle : exec .getAngle s = .next (beginQuery .angle s) := rfl
theorem exec_getVelocity (now : Time) : exec (.getVelocity now) s = .next (beginQuery (.velocity now) s) := rfl
theorem exec_zeroAbs : exec .zeroAbs s = .next (beginQuery .minusAngle s) := rfl

end exec

/-! ### The formulas -/

theorem time_eq_zero_iff (i : Time) : i = 0 ↔ i.toNat = 0 := by
  rw [← BitVec.toNat_inj]; rfl

section formulas
variable (p : Params)

theorem angleOf_eq (rot : Rot) (sector : Sector) : angleOf p rot sector = angleFormula p rot sector := by
  rw [angleOf, angleFormula, positionCount, countsPerRev]
  ring

theorem velocityOf_eq (now i t : Time) (d : Dir) : velocityOf p now i t d = velocityFormula p now i t d := by
  simp only [velocityOf, velocityFormula, countsPerRev, time_eq_zero_iff, BitVec.lt_def, gt_iff_lt]
  congr 2
  rw [div_div_eq_mul_div, mul_div_assoc', div_mul_eq_mul_div, div_div]

end formulas

/-! ### What each query answers for its reads -/

/-- In either order the two reads give the angle of the registers read, or its negative. -/
theorem queryAfter_angle_result (s : State) {k : QueryKind} (hk : k = .angle ∨ k = .minusAngle) (p : Params)
    (seen : List State) (hlen : seen.length = 2) :
    (queryAfter k (angleReads s.sched.angleOrder) seen).result p = tornAngle s k p seen := by
  obtain ⟨u, v, rfl⟩ := List.length_eq_two.1 hlen
  rcases hk with rfl | rfl <;> cases ho : s.sched.angleOrder <;>
    simp [Query.result, queryAfter, latchAfter, angleReads, tornAngle, angleOf_eq, ho]

/-- In each order the three reads give the velocity of the registers read. -/
theorem queryAfter_velocity_result (s : State) (now : Time) (p : Params) (seen : List State) (hlen : seen.length = 3) :
    (queryAfter (.velocity now) (velocityReads s.sched.velocityOrder) seen).result p = tornVelocity s now p seen := by
  obtain ⟨u, v, w, rfl⟩ := List.length_eq_three.1 hlen
  cases ho : s.sched.velocityOrder <;>
    simp [Query.result, queryAfter, latchAfter, velocityReads, tornVelocity, Claims.hallRead, Claims.readAt,
      velocityOf_eq, ho]

/-! ### The obligations -/

/-- Settles O22: the course of a query with the two reads of its order. -/
theorem tornAngleRead : Obligations.TornAngleRead := by
  intro s k hk
  have hans := queryAfter_angle_result s hk
  have hlen := angleReads_length s.sched.angleOrder
  rw [← hlen] at hans ⊢
  rcases hk with rfl | rfl
  · exact runsTorn_of_exec (exec_getAngle s) rfl hans
  · exact runsTorn_of_exec (exec_zeroAbs s) rfl hans

/-- Settles O23: the course of a query with the three reads of its order. -/
theorem tornVelocityRead : Obligations.TornVelocityRead := by
  intro s now
  have hans := queryAfter_velocity_result s now
  have hlen := velocityReads_length s.sched.velocityOrder
  rw [← hlen] at hans ⊢
  exact runsTorn_of_exec (exec_getVelocity s now) rfl hans

theorem tornAngle_replicate (s : State) (k : QueryKind) : tornAngle s k s.params (List.replicate 2 s) =
    .angle (if k = .angle then angleFormula s.params s.hall.rot s.hall.sector
      else -angleFormula s.params s.hall.rot s.hall.sector) := by
  cases ho : s.sched.angleOrder <;> simp [tornAngle, ho]

theorem tornVelocity_replicate (s : State) (now : Time) : tornVelocity s now s.params (List.replicate 3 s) =
    .velocity (velocityFormula s.params now s.hall.ivl s.hall.ts s.hall.dir) := by
  cases ho : s.sched.velocityOrder <;>
    simp [tornVelocity, Claims.hallRead, Claims.readAt, velocityReads, ho]

/-- Settles O19: the course of O22 when the slice holds both reads, all in the one state. -/
theorem angleQueriesAnswer : Obligations.AngleQueriesAnswer := by
  intro s hslice
  have hangle := tornAngleRead s .angle (.inl rfl)
  have hminus := tornAngleRead s .minusAngle (.inr rfl)
  rw [RunsTorn, if_pos hslice, tornAngle_replicate] at hangle hminus
  exact ⟨hangle, hminus⟩

/-- Settles O20: the course of O23 when the slice holds all three reads, in the one state. -/
theorem velocityQueryAnswers : Obligations.VelocityQueryAnswers := by
  intro s now hslice
  have hvelocity := tornVelocityRead s now
  rw [RunsTorn, if_pos hslice, tornVelocity_replicate] at hvelocity
  exact hvelocity

/-- Under the premises no factor of the formula is zero but by the two guards. -/
theorem velocityFormula_ne_zero_iff {p : Params} (hp : p.wf = true) (now i t : Time) (d : Dir) :
    velocityFormula p now i t d ≠ 0 ↔ i ≠ 0 ∧ (now - t).toNat ≤ i.toNat := by
  obtain ⟨hpp, htick, -⟩ := (params_wf_iff p).1 hp
  have hsign : dirSign d ≠ 0 := by cases d <;> decide
  simp only [velocityFormula, ne_eq, time_eq_zero_iff]
  generalize (now - t).toNat = elapsed
  by_cases hi : i.toNat = 0
  · simp [hi]
  · rcases lt_or_ge i.toNat elapsed with hstale | hfresh
    · simp [hi, hstale, hstale.not_ge]
    · have htick' : p.tickHz ≠ 0 := by omega
      have hpp' : p.polePairs ≠ 0 := by omega
      simp [hi, hfresh, hfresh.not_gt, hsign, htick', hpp']

/-- Settles O21: the answer is the formula of O20, non-zero outside its two guards. -/
theorem velocityNonzeroExactlyWhenFresh : Obligations.VelocityNonzeroExactlyWhenFresh := by
  intro s t now q hp hslice ht hq
  rw [velocityQueryAnswers s now hslice] at ht
  obtain rfl := Host.Outcome.next.inj ht
  obtain rfl := Result.velocity.inj hq
  exact velocityFormula_ne_zero_iff hp ..

end Sys2Proof.Machine
end

section
/-! PROOFS. What an operation can do (R43, R174). The Hall half's operations have seven forms and the PWM half's four; what
an operation that completes leaves of each part of the state is said once over these forms, and the phase table, the
independence of the halves and the access matrix are read off that. -/

namespace Sys2Proof.Machine

open Sys2Proof.Claims (edgeOp presenting SamePools)

/-! ### The forms of the operations -/

/-- `IRQ_ATTACH_x` (R91, R88, R89). -/
def attachOp : Channel → Instr
  | .a => .irqAttachA
  | .b => .irqAttachB
  | .c => .irqAttachC

/-- `CB_ATTACH` and `CB_DETACH` (R99, R100). -/
def callbackOp : Bool → Instr
  | true => .cbAttach
  | false => .cbDetach

/-- An operation of the Hall half answers from the Hall registers, starts a query, or writes Hall registers. -/
inductive HallForm : Instr → Prop
  | answer {i : Instr} (f : Hall → Result) (runs : ∀ s, exec i s = .next (s.answer (f s.hall))) : HallForm i
  | query {i : Instr} (k : QueryKind) (runs : ∀ s, exec i s = .next (beginQuery k s)) : HallForm i
  | hallInit (a b c : Level) (now : Time) : HallForm (.hallInit a b c now)
  | attach (x : Channel) : HallForm (attachOp x)
  | callback (b : Bool) : HallForm (callbackOp b)
  | zeroRel : HallForm .zeroRel
  | edge (x : Channel) (lvl : Level) (now : Time) : HallForm (edgeOp x lvl now)

/-- An operation of the PWM half allocates, seals, configures a unit or writes duties. -/
inductive PwmForm : Instr → Prop
  | alloc {i : Instr} (T : Topology) (pin : Pin) (pins : List Pin) (kind : isAlloc i = true)
      (runs : ∀ s, exec i s = allocate T pin pins s) : PwmForm i
  | seals : PwmForm .sealSlots
  | config {i : Instr} (T : Topology) (u : UnitId) (req : FreqReq) (dz : DeadZone) (kind : isAlloc i = false)
      (unsealed : i ≠ .sealSlots) (runs : ∀ s, exec i s = .next (configure T u req dz s)) : PwmForm i
  | write {i : Instr} (T : Topology) (key : Pin) (duties : List Rat) (kind : isAlloc i = false)
      (unsealed : i ≠ .sealSlots) (runs : ∀ s, exec i s = .next (writeDuties T key duties s)) : PwmForm i

theorem hallForm {i : Instr} (half : isPwmOp i = false) : HallForm i := by
  cases i with
  | sect r => exact .answer (fun _ => .sectorOrInvalid (rom r)) (exec_sect r)
  | needsZeroSearch => exact .answer (fun _ => .flag false) exec_needsZeroSearch
  | hasAbsZero => exact .answer (fun _ => .flag true) exec_hasAbsZero
  | rdLevels => exact .answer (fun h => .levels h.code) exec_rdLevels
  | rdRaw => exact .answer (fun h => .raw h.raw) exec_rdRaw
  | rdSector => exact .answer (fun h => .sector h.sector) exec_rdSector
  | rdDir => exact .answer (fun h => .dir h.dir) exec_rdDir
  | rdRot => exact .answer (fun h => .rot h.rot) exec_rdRot
  | rdTs => exact .answer (fun h => .ts h.ts) exec_rdTs
  | rdIvl => exact .answer (fun h => .ivl h.ivl) exec_rdIvl
  | rdEdges => exact .answer (fun h => .edges h.edges) exec_rdEdges
  | getAngle => exact .query .angle exec_getAngle
  | getVelocity now => exact .query (.velocity now) fun s => exec_getVelocity s now
  | zeroAbs => exact .query .minusAngle exec_zeroAbs
  | hallInit a b c now => exact .hallInit a b c now
  | irqAttachA => exact .attach .a
  | irqAttachB => exact .attach .b
  | irqAttachC => exact .attach .c
  | cbAttach => exact .callback true
  | cbDetach => exact .callback false
  | zeroRel => exact .zeroRel
  | edgeA lvl now => exact .edge .a lvl now
  | edgeB lvl now => exact .edge .b lvl now
  | edgeC lvl now => exact .edge .c lvl now
  | alloc3 | alloc4 | alloc6 | sealSlots | config3 | config4 | config6 | write3 | write4 | write6 => cases half

theorem pwmForm {i : Instr} (half : isPwmOp i = true) : PwmForm i := by
  cases i with
  | alloc3 a b c => exact .alloc _ _ _ rfl (exec_alloc3 a b c)
  | alloc4 a b c d => exact .alloc _ _ _ rfl (exec_alloc4 a b c d)
  | alloc6 a b c d e f => exact .alloc _ _ _ rfl (exec_alloc6 a b c d e f)
  | sealSlots => exact .seals
  | config3 u req => exact .config _ _ _ _ rfl nofun (exec_config3 u req)
  | config4 u req => exact .config _ _ _ _ rfl nofun (exec_config4 u req)
  | config6 u req dz => exact .config _ _ _ _ rfl nofun fun s => exec_config6 u req s dz
  | write3 key dA dB dC => exact .write _ _ _ rfl nofun fun s => exec_write3 key s dA dB dC
  | write4 key d1A d1B d2A d2B => exact .write _ _ _ rfl nofun fun s => exec_write4 key s d1A d1B d2A d2B
  | write6 key dA dB dC => exact .write _ _ _ rfl nofun fun s => exec_write6 key s dA dB dC
  | sect | hallInit | cbAttach | cbDetach | irqAttachA | irqAttachB | irqAttachC | edgeA | edgeB | edgeC | getAngle
  | getVelocity | needsZeroSearch | hasAbsZero | zeroRel | zeroAbs | rdLevels | rdRaw | rdSector | rdDir | rdRot | rdTs
  | rdIvl | rdEdges => cases half

section forms
variable (x : Channel) (lvl : Level) (now : Time) (b : Bool) (k : QueryKind) (s : State)

theorem exec_attachOp : exec (attachOp x) s = .next ((s.setHall (s.hall.attach x)).answer .nothing) := by
  cases x with
  | a => exact exec_irqAttachA s
  | b => exact exec_irqAttachB s
  | c => exact exec_irqAttachC s

theorem exec_callbackOp :
    exec (callbackOp b) s = .next ((s.setHall { s.hall with cbEn := b }).answer .nothing) := by
  cases b with
  | true => exact exec_cbAttach s
  | false => exact exec_cbDetach s

theorem isEdge_edgeOp : isEdge (edgeOp x lvl now) = true := by cases x <;> rfl

@[simp] theorem beginQuery_params : (beginQuery k s).params = s.params := runQuery_params ..
@[simp] theorem beginQuery_hall : (beginQuery k s).hall = s.hall := runQuery_hall ..
@[simp] theorem beginQuery_pwm : (beginQuery k s).pwm = s.pwm := runQuery_pwm ..
@[simp] theorem beginQuery_inputs : (beginQuery k s).inputs = s.inputs := runQuery_inputs ..

end forms

/-! ### The operation's half and its other properties -/

theorem isPwmOp_of_isAlloc {i : Instr} (h : isAlloc i = true) : isPwmOp i = true := by
  cases i with
  | alloc3 | alloc4 | alloc6 => rfl
  | _ => cases h

theorem ne_sealSlots_of_hallOp {i : Instr} (h : isPwmOp i = false) : i ≠ .sealSlots := by
  rintro rfl; cases h

theorem ne_sealSlots_of_isAlloc {i : Instr} (h : isAlloc i = true) : i ≠ .sealSlots := by
  rintro rfl; cases h

theorem phaseAfter_of_ne {i : Instr} (h : i ≠ .sealSlots) (ph : Phase) : phaseAfter ph i = ph := by
  cases i with
  | sealSlots => exact absurd rfl h
  | _ => rfl

/-! ### The phase table -/

/-- Settles O32: only an allocation can be refused, and it is exactly in `Run`. -/
theorem acceptedUnlessAllocAfterSeal : Obligations.AcceptedUnlessAllocAfterSeal := by
  intro i s
  cases half : isPwmOp i with
  | false =>
    have hkind : ¬ isAlloc i = true := fun h => by simp [isPwmOp_of_isAlloc h] at half
    refine ⟨fun h => absurd h.1 hkind, fun _ => ?_⟩
    cases hallForm half with
    | answer f runs => exact ⟨_, runs s⟩
    | query k runs => exact ⟨_, runs s⟩
    | hallInit a b c now => exact ⟨_, exec_hallInit s a b c now⟩
    | attach x => exact ⟨_, exec_attachOp x s⟩
    | callback b => exact ⟨_, exec_callbackOp b s⟩
    | zeroRel => exact ⟨_, exec_zeroRel s⟩
    | edge x lvl now => exact ⟨_, exec_edgeOp s x lvl now⟩
  | true =>
    cases pwmForm half with
    | alloc T pin pins kind runs =>
      rw [runs]
      rcases allocate_cases T pin pins s with ⟨hrun, e⟩ | ⟨hsetup, -, e⟩ | ⟨hsetup, x, -, e⟩
      · exact ⟨fun _ => e, fun h => absurd ⟨kind, hrun⟩ h⟩
      · exact ⟨fun h => by simp [hsetup] at h, fun _ => ⟨_, e⟩⟩
      · exact ⟨fun h => by simp [hsetup] at h, fun _ => ⟨_, e⟩⟩
    | seals => exact ⟨fun ⟨hkind, _⟩ => absurd hkind (by decide), fun _ => ⟨_, exec_sealSlots s⟩⟩
    | config T u req dz kind _ runs => exact ⟨fun h => by simp [kind] at h, fun _ => ⟨_, runs s⟩⟩
    | write T key duties kind _ runs => exact ⟨fun h => by simp [kind] at h, fun _ => ⟨_, runs s⟩⟩

/-! ### What an operation that completes leaves -/

section completes
variable {i : Instr} {s t : State}

/-- What an operation can do to the Hall half, from `s` to `t`. -/
inductive HallEffect (s t : State) : Instr → Prop
  | same {i : Instr} (hall : t.hall = s.hall) : HallEffect s t i
  | hallInit (a b c : Level) (now : Time) (hall : t.hall = s.hall.init a b c now) : HallEffect s t (.hallInit a b c now)
  | attach (x : Channel) (hall : t.hall = s.hall.attach x) : HallEffect s t (attachOp x)
  | callback (b : Bool) (hall : t.hall = { s.hall with cbEn := b }) : HallEffect s t (callbackOp b)
  | zeroRel (hall : t.hall = { s.hall with rot := 0 }) : HallEffect s t .zeroRel
  | edge (x : Channel) (lvl : Level) (now : Time) (hall : t.hall = (edgePass x lvl now s).hall) :
      HallEffect s t (edgeOp x lvl now)

/-- What an operation can do to the PWM half, from `s` to `t`: nothing; claim an `Empty` slot; seal; or, leaving the pools
and the phase, configure a unit or write duties. -/
inductive PwmEffect (s t : State) : Instr → Prop
  | same {i : Instr} (unsealed : i ≠ .sealSlots) (pwm : t.pwm = s.pwm) : PwmEffect s t i
  | claim {i : Instr} (x : Slot) (pin : Pin) (kind : isAlloc i = true) (phase : s.pwm.phase = .setup)
      (free : s.pwm.marker x = .empty) (pwm : t.pwm = s.pwm.claim x pin) : PwmEffect s t i
  | seals (pwm : t.pwm = { s.pwm with phase := .run }) : PwmEffect s t .sealSlots
  | units {i : Instr} (half : isPwmOp i = true) (kind : isAlloc i = false) (unsealed : i ≠ .sealSlots)
      (pools : SamePools s t)
      (aligned : ∀ u : UnitId, (s.pwm.units[u]).aligned = true → (t.pwm.units[u]).aligned = true) : PwmEffect s t i

/-- What a Hall operation can do. -/
theorem exec_hallOp (half : isPwmOp i = false) (h : exec i s = .next t) :
    HallEffect s t i ∧ t.pwm = s.pwm ∧ t.params = s.params ∧ t.inputs = s.inputs
      ∧ (t.inflight = s.inflight ∨ ∃ k, t = beginQuery k s) := by
  cases hallForm half with
  | answer f runs =>
    obtain rfl := Host.Outcome.next.inj ((runs s).symm.trans h)
    exact ⟨.same rfl, rfl, rfl, rfl, .inl rfl⟩
  | query k runs =>
    obtain rfl := Host.Outcome.next.inj ((runs s).symm.trans h)
    exact ⟨.same (beginQuery_hall k s), beginQuery_pwm k s, beginQuery_params k s, beginQuery_inputs k s, .inr ⟨k, rfl⟩⟩
  | hallInit a b c now =>
    obtain rfl := Host.Outcome.next.inj ((exec_hallInit s a b c now).symm.trans h)
    exact ⟨.hallInit a b c now rfl, rfl, rfl, rfl, .inl rfl⟩
  | attach x =>
    obtain rfl := Host.Outcome.next.inj ((exec_attachOp x s).symm.trans h)
    exact ⟨.attach x rfl, rfl, rfl, rfl, .inl rfl⟩
  | callback b =>
    obtain rfl := Host.Outcome.next.inj ((exec_callbackOp b s).symm.trans h)
    exact ⟨.callback b rfl, rfl, rfl, rfl, .inl rfl⟩
  | zeroRel =>
    obtain rfl := Host.Outcome.next.inj ((exec_zeroRel s).symm.trans h)
    exact ⟨.zeroRel rfl, rfl, rfl, rfl, .inl rfl⟩
  | edge x lvl now =>
    obtain rfl := Host.Outcome.next.inj ((exec_edgeOp s x lvl now).symm.trans h)
    exact ⟨.edge x lvl now rfl, edgePass_pwm .., edgePass_params .., edgePass_inputs .., .inl (edgePass_inflight ..)⟩

/-- A configuration aligns its unit and leaves the other (R141). -/
theorem configure_keeps_aligned (T : Topology) (u : UnitId) (req : FreqReq) (dz : DeadZone) (v : UnitId)
    (hv : (s.pwm.units[v]).aligned = true) : ((configure T u req dz s).pwm.units[v]).aligned = true := by
  by_cases huv : v = u
  · subst huv; exact configure_aligns_unit ..
  · rwa [configure_other_unit T u req dz s v huv]

/-- What a PWM operation can do. -/
theorem exec_pwmOp (half : isPwmOp i = true) (h : exec i s = .next t) :
    PwmEffect s t i ∧ t.hall = s.hall ∧ t.params = s.params ∧ t.inputs = s.inputs ∧ t.inflight = s.inflight := by
  cases pwmForm half with
  | alloc T pin pins kind runs =>
    rw [runs] at h
    rcases allocate_cases T pin pins s with ⟨-, e⟩ | ⟨-, -, e⟩ | ⟨hsetup, x, hfit, e⟩ <;> rw [e] at h <;> cases h
    · exact ⟨.same (ne_sealSlots_of_isAlloc kind) rfl, rfl, rfl, rfl, rfl⟩
    · obtain ⟨-, hfree⟩ := firstFit_some hfit
      exact ⟨.claim x pin kind hsetup hfree rfl, rfl, rfl, rfl, rfl⟩
  | seals =>
    obtain rfl := Host.Outcome.next.inj ((exec_sealSlots s).symm.trans h)
    exact ⟨.seals rfl, rfl, rfl, rfl, rfl⟩
  | config T u req dz kind unsealed runs =>
    obtain rfl := Host.Outcome.next.inj ((runs s).symm.trans h)
    exact ⟨.units half kind unsealed (configure_samePools ..) (configure_keeps_aligned T u req dz), rfl, rfl, rfl, rfl⟩
  | write T key duties kind unsealed runs =>
    obtain rfl := Host.Outcome.next.inj ((runs s).symm.trans h)
    rcases writeDuties_cases T key duties s with ⟨-, e⟩ | ⟨x, hfind, -⟩
    · rw [e]; exact ⟨.same unsealed rfl, rfl, rfl, rfl, rfl⟩
    · obtain ⟨⟨hparams, hhall, hinflight, -, hinputs⟩, hpools, -, haligned, -⟩ :=
        writeDuties_writesDuties duties hfind
      exact ⟨.units half kind unsealed hpools fun u hu => (haligned u).trans hu, hhall, hparams, hinputs, hinflight⟩

theorem exec_params (h : exec i s = .next t) : t.params = s.params := by
  cases half : isPwmOp i with
  | false => obtain ⟨-, -, hparams, -⟩ := exec_hallOp half h; exact hparams
  | true => obtain ⟨-, -, hparams, -⟩ := exec_pwmOp half h; exact hparams

theorem exec_inputs (h : exec i s = .next t) : t.inputs = s.inputs := by
  cases half : isPwmOp i with
  | false => obtain ⟨-, -, -, hinputs, -⟩ := exec_hallOp half h; exact hinputs
  | true => obtain ⟨-, -, -, hinputs, -⟩ := exec_pwmOp half h; exact hinputs

theorem exec_inflight_cases (h : exec i s = .next t) : t.inflight = s.inflight ∨ ∃ k, t = beginQuery k s := by
  cases half : isPwmOp i with
  | false => obtain ⟨-, -, -, -, hinflight⟩ := exec_hallOp half h; exact hinflight
  | true => obtain ⟨-, -, -, -, hinflight⟩ := exec_pwmOp half h; exact .inl hinflight

theorem exec_hallEffect (h : exec i s = .next t) : HallEffect s t i := by
  cases half : isPwmOp i with
  | false => exact (exec_hallOp half h).1
  | true => obtain ⟨-, hhall, -⟩ := exec_pwmOp half h; exact .same hhall

theorem exec_pwmEffect (h : exec i s = .next t) : PwmEffect s t i := by
  cases half : isPwmOp i with
  | false => obtain ⟨-, hpwm, -⟩ := exec_hallOp half h; exact .same (ne_sealSlots_of_hallOp half) hpwm
  | true => exact (exec_pwmOp half h).1

/-- The phase moves by `SEAL` alone (R128). -/
theorem exec_phase (h : exec i s = .next t) : t.pwm.phase = phaseAfter s.pwm.phase i := by
  cases exec_pwmEffect h with
  | same unsealed pwm => rw [pwm, phaseAfter_of_ne unsealed]
  | claim x pin kind _ _ pwm => rw [pwm, claim_phase, phaseAfter_of_ne (ne_sealSlots_of_isAlloc kind)]
  | seals pwm => rw [pwm]; rfl
  | units _ _ unsealed pools _ => obtain ⟨-, -, -, hph⟩ := pools; rw [hph, phaseAfter_of_ne unsealed]

end completes

/-! ### Boot orders -/

/-- One step of a run that goes on. -/
theorem run_succ {s t : State} (h : step s = .next t) (n : Nat) :
    Host.Core.run Sys2Proof.core (n + 1) s = Host.Core.run Sys2Proof.core n t := by
  have hcore : Sys2Proof.core.step s = .next t := h
  simp only [Host.Core.run, hcore]

theorem presenting_eq_self {s : State} {is : List Instr} (h : s.inputs = (presenting s is).inputs) :
    presenting s is = s := by
  change { s with inputs := (presenting s is).inputs } = s
  rw [← h]

/-- The first operation of a sequence whose allocations come before `SEAL` completes, and leaves the rest presented. -/
theorem step_presenting {i : Instr} {is : List Instr} {s : State}
    (h : isAlloc i = true → s.pwm.phase = .setup) :
    ∃ t : State, step (presenting s (i :: is)) = .next t ∧ presenting t is = t
      ∧ t.pwm.phase = phaseAfter s.pwm.phase i := by
  have hstep : step (presenting s (i :: is)) =
      exec i { s with inputs := (presenting s is).inputs, sched := Sched.unhurried } :=
    step_decoded rfl (decodeOfEncode i)
  obtain ⟨-, hcompletes⟩ :=
    acceptedUnlessAllocAfterSeal i { s with inputs := (presenting s is).inputs, sched := Sched.unhurried }
  obtain ⟨t, ht⟩ := hcompletes fun ⟨hkind, hrun⟩ => by cases (h hkind).symm.trans hrun
  exact ⟨t, hstep.trans ht, presenting_eq_self ((exec_inputs ht).trans rfl), (exec_phase ht).trans rfl⟩

/-- Settles O33: by induction on the operations, each step leaving the rest presented in the phase the next one needs. -/
theorem orderedBootIsNeverRefused : Obligations.OrderedBootIsNeverRefused := by
  intro is
  induction is with
  | nil => exact fun s _ => ⟨presenting s [], rfl, rfl⟩
  | cons i is ih =>
    intro s hboot
    simp only [allocsBeforeSeal, Bool.and_eq_true, Bool.or_eq_true, Bool.not_eq_true', decide_eq_true_eq] at hboot
    obtain ⟨hfirst, hrest⟩ := hboot
    obtain ⟨t, hstep, hpresents, hphase⟩ := step_presenting (i := i) (is := is) (s := s)
      fun hkind => hfirst.resolve_left (by simp [hkind])
    rw [List.length_cons, run_succ hstep, ← hpresents]
    exact ih t (hphase ▸ hrest)

/-! ### The independence of the halves -/

/-- What a query answers is a function of the Hall registers it reads, the parameters and the schedule. -/
theorem beginQuery_out {s t : State} (k : QueryKind) (hparams : s.params = t.params) (hhall : s.hall = t.hall)
    (hsched : s.sched = t.sched) : (beginQuery k s).out = (beginQuery k t).out := by
  simp only [beginQuery, runQuery, hparams, hhall, hsched]
  split <;> rfl

theorem edgePass_congr {s t : State} (x : Channel) (lvl : Level) (now : Time) (hparams : s.params = t.params)
    (hhall : s.hall = t.hall) : (edgePass x lvl now s).hall = (edgePass x lvl now t).hall
      ∧ (edgePass x lvl now s).out = (edgePass x lvl now t).out := by
  simp only [edgePass, hparams, hhall]
  split
  · exact ⟨rfl, rfl⟩
  · exact ⟨hhall, rfl⟩

section twoRuns
variable {i : Instr} {s t s' t' : State}

/-- What a Hall operation leaves in the Hall half, and answers, from two states with the same Hall half. -/
theorem hallOp_congr (half : isPwmOp i = false) (hs : exec i s = .next s') (ht : exec i t = .next t')
    (hparams : s.params = t.params) (hhall : s.hall = t.hall) :
    s'.hall = t'.hall ∧ (s.sched = t.sched → s'.out = t'.out) := by
  cases hallForm half with
  | answer f runs =>
    rw [runs] at hs ht; cases hs; cases ht
    exact ⟨hhall, fun _ => by simp [hhall]⟩
  | query k runs =>
    rw [runs] at hs ht; cases hs; cases ht
    exact ⟨by simp [hhall], beginQuery_out k hparams hhall⟩
  | hallInit a b c now =>
    rw [exec_hallInit] at hs ht; cases hs; cases ht
    exact ⟨by simp [hhall], fun _ => rfl⟩
  | attach x =>
    rw [exec_attachOp] at hs ht; cases hs; cases ht
    exact ⟨by simp [hhall], fun _ => rfl⟩
  | callback b =>
    rw [exec_callbackOp] at hs ht; cases hs; cases ht
    exact ⟨by simp [hhall], fun _ => rfl⟩
  | zeroRel =>
    rw [exec_zeroRel] at hs ht; cases hs; cases ht
    exact ⟨by simp [hhall], fun _ => rfl⟩
  | edge x lvl now =>
    rw [exec_edgeOp] at hs ht; cases hs; cases ht
    obtain ⟨hh, hout⟩ := edgePass_congr x lvl now hparams hhall
    exact ⟨hh, fun _ => hout⟩

/-- What a PWM operation leaves in the PWM half, and answers, from two states with the same PWM half. -/
theorem pwmOp_congr (half : isPwmOp i = true) (hs : exec i s = .next s') (ht : exec i t = .next t')
    (hparams : s.params = t.params) (hpwm : s.pwm = t.pwm) : s'.pwm = t'.pwm ∧ s'.out = t'.out := by
  cases pwmForm half with
  | alloc T pin pins kind runs =>
    rw [runs] at hs ht
    rcases allocate_cases T pin pins s with ⟨-, e⟩ | ⟨hsetup, hfit, e⟩ | ⟨hsetup, x, hfit, e⟩ <;> rw [e] at hs <;>
      cases hs
    · rw [hpwm] at hsetup hfit
      rw [allocate_exhausted pin pins hsetup hfit] at ht; cases ht
      exact ⟨hpwm, rfl⟩
    · rw [hpwm] at hsetup hfit
      rw [allocate_fits pin pins hsetup hfit] at ht; cases ht
      exact ⟨by simp [hpwm], rfl⟩
  | seals =>
    rw [exec_sealSlots] at hs ht; cases hs; cases ht
    exact ⟨by simp [hpwm], rfl⟩
  | config T u req dz _ _ runs =>
    rw [runs] at hs ht; cases hs; cases ht
    exact ⟨by rw [configure_pwm, configure_pwm, hpwm, hparams], rfl⟩
  | write T key duties _ _ runs =>
    rw [runs] at hs ht; cases hs; cases ht
    cases hfind : s.pwm.find T key with
    | none => rw [writeDuties_miss _ hfind, writeDuties_miss _ (hpwm ▸ hfind)]; exact ⟨hpwm, rfl⟩
    | some x => rw [writeDuties_hit _ hfind, writeDuties_hit _ (hpwm ▸ hfind)]; exact ⟨by simp [hpwm], rfl⟩

end twoRuns

/-- Settles O52: an operation writes and answers from its own half by the two congruences, and leaves the other half. -/
theorem halvesAreIndependent : Obligations.HalvesAreIndependent := by
  intro i s t s' t' hs ht hparams
  cases half : isPwmOp i with
  | false =>
    obtain ⟨-, hpwm, -⟩ := exec_hallOp half hs
    obtain ⟨-, hpwm', -⟩ := exec_hallOp half ht
    have hcongr := hallOp_congr half hs ht hparams
    exact ⟨fun hh => (hcongr hh).1, fun hp => hpwm.trans (hp.trans hpwm'.symm),
      fun _ => ⟨hpwm, fun hh => (hcongr hh).2⟩, nofun⟩
  | true =>
    obtain ⟨-, hhall, -, -, hinflight⟩ := exec_pwmOp half hs
    obtain ⟨-, hhall', -⟩ := exec_pwmOp half ht
    have hcongr := pwmOp_congr half hs ht hparams
    exact ⟨fun hh => hhall.trans (hh.trans hhall'.symm), fun hp => (hcongr hp).1, nofun,
      fun _ => ⟨hhall, hinflight, fun hp => (hcongr hp).2⟩⟩

end Sys2Proof.Machine
end

section
/-! PROOFS. What every step keeps (R20, R31, R32, R35, R36, R43, R129, R141). A step idles, resumes a query or carries out
an operation; its part on the Hall half, the pools and the queries in progress is read off what an operation can do. -/

namespace Sys2Proof.Machine

open Sys2Proof.Claims (edgeOp configOp isHallInit SamePools angleFormula velocityFormula)

/-! ### A step as an operation -/

/-- A step that goes on leaves the parameters and both halves and at most resumes a query, or carries out an operation in a
state that differs in the schedule and the presented inputs only. -/
theorem step_effect {s t : State} (h : step s = .next t) :
    (t.params = s.params ∧ t.hall = s.hall ∧ t.pwm = s.pwm
      ∧ (t.inflight = s.inflight ∨ ∃ n s₀, s₀.inflight = s.inflight ∧ t = resumeQuery n s₀))
    ∨ ∃ i s₀, exec i s₀ = .next t ∧ s₀.params = s.params ∧ s₀.hall = s.hall ∧ s₀.pwm = s.pwm
      ∧ s₀.inflight = s.inflight := by
  rcases step_cases h with rfl | ⟨n, rest, -, rfl⟩ | ⟨i, rest, sched, hexec⟩
  · exact .inl ⟨rfl, rfl, rfl, .inl rfl⟩
  · exact .inl ⟨resumeQuery_params .., resumeQuery_hall .., resumeQuery_pwm ..,
      .inr ⟨n, { s with inputs := rest }, rfl, rfl⟩⟩
  · exact .inr ⟨i, _, hexec, rfl, rfl, rfl, rfl⟩

/-! ### The markers -/

theorem samePools_marker {s t : State} (h : SamePools s t) (x : Slot) : t.pwm.marker x = s.pwm.marker x := by
  obtain ⟨h3, h4, h6, -⟩ := h
  cases x <;> simp only [Pwm.marker, h3, h4, h6]

section markers
variable {i : Instr} {s t : State}

/-- An operation leaves every marker, or is an allocation in the setup phase that claims an `Empty` slot. -/
theorem exec_marker_cases (h : exec i s = .next t) : (∀ x, t.pwm.marker x = s.pwm.marker x)
    ∨ (s.pwm.phase = .setup ∧ ∃ x pin, s.pwm.marker x = .empty ∧ t.pwm = s.pwm.claim x pin) := by
  cases exec_pwmEffect h with
  | same _ pwm => exact .inl fun x => by rw [pwm]
  | claim x pin _ phase free pwm => exact .inr ⟨phase, x, pin, free, pwm⟩
  | seals pwm => exact .inl fun x => by rw [pwm]; cases x <;> rfl
  | units _ _ _ pools _ => exact .inl (samePools_marker pools)

theorem step_marker_cases (h : step s = .next t) : (∀ x, t.pwm.marker x = s.pwm.marker x)
    ∨ (s.pwm.phase = .setup ∧ ∃ x pin, s.pwm.marker x = .empty ∧ t.pwm = s.pwm.claim x pin) := by
  rcases step_effect h with ⟨-, -, hpwm, -⟩ | ⟨i, s₀, hexec, -, -, hpwm, -⟩
  · exact .inl fun x => by rw [hpwm]
  · rw [← hpwm]; exact exec_marker_cases hexec

/-- Over an operation a marker stays, or goes from `Empty` to `Taken` or `Pin`. -/
theorem exec_marker_life (hp : pwmOk s.pwm = true) (h : exec i s = .next t) (x : Slot) :
    t.pwm.marker x = s.pwm.marker x
      ∨ (s.pwm.marker x = .empty ∧ (t.pwm.marker x = .taken ∨ isPin (t.pwm.marker x) = true)) := by
  rcases exec_marker_cases h with hsame | ⟨-, y, pin, hfree, hpwm⟩
  · exact .inl (hsame x)
  · rw [hpwm]; exact claim_marker_cases pin hp hfree x

end markers

/-- Settles O36: a `Pin` is not `Empty`, so it stays. -/
theorem allocOverwritesNoPin : Obligations.AllocOverwritesNoPin := by
  intro i s t x p hp h hx
  rcases exec_marker_life hp h x with hsame | ⟨hempty, -⟩
  · exact hsame.trans hx
  · cases hx.symm.trans hempty

/-- Settles O38: a step leaves the markers or makes a claim. -/
theorem markerTransitions : Obligations.MarkerTransitions := by
  intro s t x hp h
  rcases step_marker_cases h with hsame | ⟨-, y, pin, hfree, hpwm⟩
  · exact .inl (hsame x)
  · rw [hpwm]; exact claim_marker_cases pin hp hfree x

/-- The lookup reads the markers only (R150). -/
theorem find_congr {p q : Pwm} (h : ∀ x, q.marker x = p.marker x) (T : Topology) (key : Pin) :
    q.find T key = p.find T key := by
  simp only [Pwm.find, h]

/-! ### What an edge operation leaves -/

theorem edgePass_level_other {x y : Channel} (hxy : x ≠ y) {lvl : Level} {now : Time} {s : State} :
    (edgePass y lvl now s).hall.level x = s.hall.level x := by
  cases ha : s.hall.attached y with
  | false => rw [edgePass_detached ha, emit_hall]
  | true => rw [edgePass_level ha, if_neg hxy]

theorem edgePass_cbEn {x : Channel} {lvl : Level} {now : Time} {s : State} :
    (edgePass x lvl now s).hall.cbEn = s.hall.cbEn := by
  rcases edgePass_hall_cases x lvl now s with ⟨-, e⟩ | ⟨-, -, e⟩ | ⟨-, ns, -, e⟩ <;> simp [e]

/-! ### What no step undoes -/

section oneWay
variable {s t : State}

theorem step_params (h : step s = .next t) : t.params = s.params := by
  rcases step_effect h with ⟨hparams, -⟩ | ⟨i, s₀, hexec, hparams, -⟩
  · exact hparams
  · exact (exec_params hexec).trans hparams

theorem phaseAfter_run (i : Instr) : phaseAfter .run i = .run := by cases i <;> rfl

theorem step_keeps_run (h : step s = .next t) (hrun : s.pwm.phase = .run) : t.pwm.phase = .run := by
  rcases step_effect h with ⟨-, -, hpwm, -⟩ | ⟨i, s₀, hexec, -, -, hpwm, -⟩
  · rwa [hpwm]
  · rw [exec_phase hexec, hpwm, hrun, phaseAfter_run]

theorem init_attached (h : Hall) (a b c : Level) (now : Time) (x : Channel) :
    (h.init a b c now).attached x = h.attached x := by cases x <;> rfl

theorem exec_keeps_attached {i : Instr} (h : exec i s = .next t) {x : Channel} (hx : s.hall.attached x = true) :
    t.hall.attached x = true := by
  cases exec_hallEffect h with
  | same hall => rwa [hall]
  | hallInit a b c now hall => rwa [hall, init_attached]
  | attach y hall => rw [hall, attach_attached, hx, Bool.or_true]
  | callback b hall => rw [hall]; cases x <;> exact hx
  | zeroRel hall => rw [hall]; cases x <;> exact hx
  | edge y lvl now hall => rwa [hall, edgePass_attached_eq]

theorem exec_keeps_aligned {i : Instr} (h : exec i s = .next t) {u : UnitId} (hu : (s.pwm.units[u]).aligned = true) :
    (t.pwm.units[u]).aligned = true := by
  cases exec_pwmEffect h with
  | same _ pwm => rwa [pwm]
  | claim x pin _ _ _ pwm => simpa only [pwm, claim_units] using hu
  | seals pwm => rw [pwm]; exact hu
  | units _ _ _ _ aligned => exact aligned u hu

end oneWay

/-- Settles O54: the four facts, each from what a step does to that part. -/
theorem oneWayStateStays : Obligations.OneWayStateStays := by
  intro s t h
  refine ⟨step_params h, step_keeps_run h, fun x hx => ?_, fun u hu => ?_⟩
  · rcases step_effect h with ⟨-, hhall, -⟩ | ⟨i, s₀, hexec, -, hhall, -⟩
    · rwa [hhall]
    · exact exec_keeps_attached hexec (by rwa [hhall])
  · rcases step_effect h with ⟨-, -, hpwm, -⟩ | ⟨i, s₀, hexec, -, -, hpwm, -⟩
    · rwa [hpwm]
    · exact exec_keeps_aligned hexec (by rwa [hpwm])

/-- Settles O49: in `Run` no claim is made, so the markers stay. -/
theorem lookupsStableAfterSeal : Obligations.LookupsStableAfterSeal := by
  intro s t hrun h
  refine ⟨step_keeps_run h hrun, fun T key => ?_⟩
  rcases step_marker_cases h with hsame | ⟨hsetup, -⟩
  · exact find_congr hsame T key
  · cases hrun.symm.trans hsetup

/-! ### The invariants -/

section hallOk
variable {h : Hall}

theorem hallOk_init (h : Hall) (a b c : Level) (now : Time) : hallOk (h.init a b c now) = true := by
  refine (hallOk_iff _).2 ⟨rfl, ?_, .inl rfl⟩
  simp only [init_raw, init_sector]
  cases rom (rawOf a b c) with
  | none => exact .inl rfl
  | some ns => exact .inr rfl

/-- An edge operation brings the code and the sector up to date with the levels (R32 b, c), and stores the two directions
together (R32 e). -/
theorem hallOk_edgePass {s : State} (x : Channel) (lvl : Level) (now : Time) (hok : hallOk s.hall = true) :
    hallOk (edgePass x lvl now s).hall = true := by
  rcases edgePass_hall_cases x lvl now s with ⟨-, e⟩ | ⟨-, hc, e⟩ | ⟨-, ns, hc, e⟩ <;> rw [e]
  · exact hok
  · obtain ⟨-, -, hdir⟩ := (hallOk_iff s.hall).1 hok
    exact (hallOk_iff _).2 ⟨rfl, .inl hc, by simpa using hdir⟩
  · exact (hallOk_iff _).2 ⟨rfl, .inr hc, .inr rfl⟩

theorem hallOk_attach (x : Channel) (hok : hallOk h = true) : hallOk (h.attach x) = true := by
  cases x <;> exact hok

/-- Every operation keeps the Hall invariant (R32). -/
theorem exec_hallOk {i : Instr} {s t : State} (hexec : exec i s = .next t) (hok : hallOk s.hall = true) :
    hallOk t.hall = true := by
  cases exec_hallEffect hexec with
  | same hall => rwa [hall]
  | hallInit a b c now hall => rw [hall]; exact hallOk_init ..
  | attach x hall => rw [hall]; exact hallOk_attach x hok
  | callback b hall => rw [hall]; exact hok
  | zeroRel hall => rw [hall]; exact hok
  | edge x lvl now hall => rw [hall]; exact hallOk_edgePass x lvl now hok

end hallOk

theorem step_hallOk {s t : State} (h : step s = .next t) (hok : hallOk s.hall = true) : hallOk t.hall = true := by
  rcases step_effect h with ⟨-, hhall, -⟩ | ⟨i, s₀, hexec, -, hhall, -⟩
  · rwa [hhall]
  · exact exec_hallOk hexec (by rwa [hhall])

/-- Every step keeps the pool invariant (R129). -/
theorem step_pwmOk {s t : State} (h : step s = .next t) (hok : pwmOk s.pwm = true) : pwmOk t.pwm = true := by
  rcases step_marker_cases h with hsame | ⟨-, x, pin, hfree, hpwm⟩
  · exact pwmOk_congr hsame hok
  · rw [hpwm]; exact claim_pwmOk pin hok hfree

section queries
variable {s t : State}

/-- A query run for a slice is well-formed if it stays in progress: what it has left is a part of what it had. -/
theorem runQuery_queriesOk {n : Nat} {q : Query} (hq : ∀ r ∈ q.todo, r ∈ queryRegs q.kind)
    (hs : ∀ q ∈ s.inflight, queryOk q = true) : ∀ q' ∈ (runQuery n q s).inflight, queryOk q' = true := by
  rcases runQuery_cases n q s with ⟨-, e⟩ | ⟨hleft, e⟩ <;> rw [e]
  · exact hs
  · refine List.forall_mem_cons.2 ⟨(queryOk_iff _).2 ?_, hs⟩
    rw [advance_todo, advance_kind]
    exact ⟨hleft, fun r hr => hq r (List.mem_of_mem_drop hr)⟩

/-- A query starts with the reads of its kind (R106, R107, R111). -/
theorem startQuery_todo (k : QueryKind) (sched : Sched) : ∀ r ∈ (startQuery k sched).todo, r ∈ queryRegs k := by
  obtain ⟨ao, vo, n⟩ := sched
  cases k with
  | angle => cases ao <;> simp [startQuery, angleReads, queryRegs]
  | minusAngle => cases ao <;> simp [startQuery, angleReads, queryRegs]
  | velocity now => cases vo <;> simp [startQuery, velocityReads, queryRegs]

theorem resumeQuery_queriesOk (n : Nat) (hs : ∀ q ∈ s.inflight, queryOk q = true) :
    ∀ q ∈ (resumeQuery n s).inflight, queryOk q = true := by
  cases hi : s.inflight with
  | nil => rwa [resumeQuery_nil hi]
  | cons q rest =>
    rw [hi] at hs
    obtain ⟨hq, hrest⟩ := List.forall_mem_cons.1 hs
    rw [resumeQuery_cons hi]
    exact runQuery_queriesOk (s := { s with inflight := rest }) ((queryOk_iff q).1 hq).2 hrest

theorem step_queriesOk (h : step s = .next t) (hs : ∀ q ∈ s.inflight, queryOk q = true) :
    ∀ q ∈ t.inflight, queryOk q = true := by
  rcases step_effect h with ⟨-, -, -, hsame | ⟨n, s₀, hinflight, rfl⟩⟩ | ⟨i, s₀, hexec, -, -, -, hinflight⟩
  · rwa [hsame]
  · exact resumeQuery_queriesOk n (by rwa [hinflight])
  · rcases exec_inflight_cases hexec with hsame | ⟨k, rfl⟩
    · rwa [hsame, hinflight]
    · exact runQuery_queriesOk (startQuery_todo k s₀.sched) (by rwa [hinflight])

end queries

/-- Settles O50: each clause of the invariant is kept by itself. -/
theorem stepKeepsStateInvariant : Obligations.StepKeepsStateInvariant := by
  intro s t hok h
  obtain ⟨hparams, hhall, hpwm, hqueries⟩ := (stateOk_iff s).1 hok
  exact (stateOk_iff t).2
    ⟨by rwa [step_params h], step_hallOk h hhall, step_pwmOk h hpwm, step_queriesOk h hqueries⟩

theorem hallReset_hallOk (p : Params) : hallOk (Hall.reset p) = true := by
  refine (hallOk_iff _).2 ⟨?_, .inl ?_, .inl rfl⟩
  · change (0 : Raw) = rawOf false false false; decide
  · change rom 0 = none; decide

/-- At reset both units are free. -/
theorem pwmReset_pwmOk : pwmOk Pwm.reset = true := pwmOk_iff.2 fun _ => .inl fun x _ => pwmReset_marker x

/-- Settles O51: the registers agree with one another at reset, the units are free, and no query is in progress. -/
theorem resetMeetsStateInvariant : Obligations.ResetMeetsStateInvariant := by
  have hreset (p : Params) (hp : p.wf = true) : stateOk (State.resetWith p) = true :=
    (stateOk_iff _).2 ⟨hp, hallReset_hallOk p, pwmReset_pwmOk, nofun⟩
  exact ⟨hreset, hreset Params.nominal (by decide)⟩

/-! ### The access matrix -/

section access
variable {i : Instr} {s t : State} (h : exec i s = .next t)
include h

/-- `lvl_x` is written by `HALL_INIT` and by its own edge (R43). -/
theorem exec_level (x : Channel) :
    t.hall.level x = s.hall.level x ∨ isHallInit i ∨ ∃ lvl now, i = edgeOp x lvl now := by
  cases exec_hallEffect h with
  | same hall => exact .inl (by rw [hall])
  | hallInit a b c now hall => exact .inr (.inl ⟨a, b, c, now, rfl⟩)
  | attach y hall => exact .inl (by rw [hall, attach_level])
  | callback b hall => exact .inl (by rw [hall]; cases x <;> rfl)
  | zeroRel hall => exact .inl (by rw [hall]; cases x <;> rfl)
  | edge y lvl now hall =>
    by_cases hxy : x = y
    · exact .inr (.inr ⟨lvl, now, hxy ▸ rfl⟩)
    · exact .inl (by rw [hall, edgePass_level_other hxy])

/-- The registers the edge procedure keeps are written by `HALL_INIT` and the edges (R43). -/
theorem exec_tracking : (t.hall.raw = s.hall.raw ∧ t.hall.sector = s.hall.sector ∧ t.hall.prevDir = s.hall.prevDir
      ∧ t.hall.ts = s.hall.ts ∧ t.hall.ivl = s.hall.ivl ∧ t.hall.edges = s.hall.edges)
    ∨ isHallInit i ∨ isEdge i = true := by
  cases exec_hallEffect h with
  | hallInit a b c now hall => exact .inr (.inl ⟨a, b, c, now, rfl⟩)
  | edge x lvl now hall => exact .inr (.inr (isEdge_edgeOp x lvl now))
  | same hall | attach x hall | callback b hall | zeroRel hall => exact .inl (by simp [hall])

theorem exec_dir : t.hall.dir = s.hall.dir ∨ isEdge i = true := by
  cases exec_hallEffect h with
  | edge x lvl now hall => exact .inr (isEdge_edgeOp x lvl now)
  | same hall | hallInit a b c now hall | attach x hall | callback b hall | zeroRel hall => exact .inl (by simp [hall])

theorem exec_rot : t.hall.rot = s.hall.rot ∨ isHallInit i ∨ isEdge i = true ∨ i = .zeroRel := by
  cases exec_hallEffect h with
  | hallInit a b c now hall => exact .inr (.inl ⟨a, b, c, now, rfl⟩)
  | edge x lvl now hall => exact .inr (.inr (.inl (isEdge_edgeOp x lvl now)))
  | zeroRel hall => exact .inr (.inr (.inr rfl))
  | same hall | attach x hall | callback b hall => exact .inl (by simp [hall])

theorem exec_cbEn : t.hall.cbEn = s.hall.cbEn ∨ i = .cbAttach ∨ i = .cbDetach := by
  cases exec_hallEffect h with
  | callback b hall => cases b <;> simp [callbackOp]
  | edge x lvl now hall => exact .inl (by rw [hall, edgePass_cbEn])
  | same hall | hallInit a b c now hall | attach x hall | zeroRel hall => exact .inl (by simp [hall])

/-- `irq_en_x` is written by its own attach (R43). -/
theorem exec_attached (x : Channel) : t.hall.attached x = s.hall.attached x ∨ i = attachOp x := by
  cases exec_hallEffect h with
  | same hall => exact .inl (by rw [hall])
  | hallInit a b c now hall => exact .inl (by rw [hall, init_attached])
  | attach y hall =>
    by_cases hxy : x = y
    · exact .inr (hxy ▸ rfl)
    · exact .inl (by simp [hall, hxy])
  | callback b hall => exact .inl (by rw [hall]; cases x <;> rfl)
  | zeroRel hall => exact .inl (by rw [hall]; cases x <;> rfl)
  | edge y lvl now hall => exact .inl (by rw [hall, edgePass_attached_eq])

theorem exec_pools :
    (t.pwm.pool3 = s.pwm.pool3 ∧ t.pwm.pool4 = s.pwm.pool4 ∧ t.pwm.pool6 = s.pwm.pool6) ∨ isAlloc i = true := by
  cases exec_pwmEffect h with
  | claim _ _ kind _ _ _ => exact .inr kind
  | same _ pwm | seals pwm => exact .inl (by simp [pwm])
  | units _ _ _ pools _ => obtain ⟨h3, h4, h6, -⟩ := pools; exact .inl ⟨h3, h4, h6⟩

theorem exec_units :
    t.pwm.units = s.pwm.units ∨ (isPwmOp i = true ∧ isAlloc i = false ∧ i ≠ .sealSlots) := by
  cases exec_pwmEffect h with
  | units half kind unsealed _ _ => exact .inr ⟨half, kind, unsealed⟩
  | claim _ _ _ _ _ pwm => exact .inl (by rw [pwm, claim_units])
  | same _ pwm | seals pwm => exact .inl (by rw [pwm])

end access

/-- Settles O53: the rows of R43, register by register. -/
theorem writeAccessMatrix : Obligations.WriteAccessMatrix := by
  intro i s t h
  refine ⟨(exec_level h .a).resolve_left, (exec_level h .b).resolve_left, (exec_level h .c).resolve_left, fun hne => ?_,
    (exec_dir h).resolve_left, (exec_rot h).resolve_left, (exec_cbEn h).resolve_left, (exec_attached h .a).resolve_left,
    (exec_attached h .b).resolve_left, (exec_attached h .c).resolve_left, fun hne => ?_, fun hne => ?_,
    (exec_units h).resolve_left⟩
  · exact (exec_tracking h).resolve_left fun ⟨hraw, hsector, hprev, hts, hivl, hedges⟩ => by
      simp [hraw, hsector, hprev, hts, hivl, hedges] at hne
  · exact (exec_pools h).resolve_left fun ⟨h3, h4, h6⟩ => by simp [h3, h4, h6] at hne
  · by_contra hunsealed
    exact hne ((exec_phase h).trans (phaseAfter_of_ne hunsealed _))

/-! ### The output frequency -/

/-- The frequency of a configured sub-timer is the applied one, with and without a dead zone. -/
theorem applyDeadZone_program_freq (t : SubTimer) (fa : Nat) (dz : DeadZone) :
    ((t.program fa).applyDeadZone fa dz).freq = fa := by
  cases dz <;> rfl

theorem exec_configOp {T : Topology} {u : UnitId} {req : FreqReq} {dz : DeadZone} {s t : State}
    (h : exec (configOp T u req dz) s = .next t) : ∃ dz', t = configure T u req dz' s := by
  cases T with
  | threePhase => exact ⟨.absent, (Host.Outcome.next.inj ((exec_config3 u req s).symm.trans h)).symm⟩
  | stepper => exact ⟨.absent, (Host.Outcome.next.inj ((exec_config4 u req s).symm.trans h)).symm⟩
  | sixPhase => exact ⟨dz, (Host.Outcome.next.inj ((exec_config6 u req s dz).symm.trans h)).symm⟩

/-- After a configuration every sub-timer of the unit puts out half the applied frequency (R142). -/
theorem configOp_outputFreq {T : Topology} {u : UnitId} {req : FreqReq} {dz : DeadZone} {s t : State}
    (h : exec (configOp T u req dz) s = .next t) (k : TmrId) :
    outputFreq (t.pwm.subTimer u k) = (normalise s.params T req : Rat) / 2 := by
  obtain ⟨dz', rfl⟩ := exec_configOp h
  rw [outputFreq, configure_unit_subTimer, applyDeadZone_program_freq]

/-- Settles O42: half of each branch of `normalise`. -/
theorem outputFrequencyIsTheRequest : Obligations.OutputFrequencyIsTheRequest := by
  intro s t u req dz T k ceiling hceil h
  rw [← freqCeiling_eq] at hceil
  subst hceil
  rw [configOp_outputFreq h]
  refine ⟨fun f hreq hf hlow => ?_, fun f hreq hf hhigh => ?_, fun hreq => ?_⟩
  · rw [hreq, normalise_hz hf, min_eq_left hlow]
    push_cast; ring
  · rw [hreq, normalise_hz hf, min_eq_right hhigh]
  · rcases hreq with rfl | rfl
    · rw [normalise_unset]
    · rw [normalise_hz_zero]

/-! ### The answers at reset -/

section atReset
variable (p : Params)

theorem resetWith_attached (x : Channel) : (State.resetWith p).hall.attached x = false := by cases x <;> rfl

theorem angleFormula_reset : angleFormula p 0 0 = 0 := by simp [angleFormula]

theorem velocityFormula_no_interval (now t : Time) (d : Dir) : velocityFormula p now 0 t d = 0 := if_pos rfl

/-- No key is found in pools whose markers are all `Empty`. -/
theorem pwmReset_marker_ne_pin (x : Slot) (key : Pin) : Pwm.reset.marker x ≠ .pin key := by simp

end atReset

/-- Settles O56: each answer is the operation's own statement, at the values of R42. -/
theorem answersAtReset : Obligations.AnswersAtReset := by
  rintro p s rfl
  obtain ⟨hangle, hminus⟩ := angleQueriesAnswer (State.resetWith p) (by decide : 2 ≤ 3)
  have hvelocity (now : Time) := velocityQueryAnswers (State.resetWith p) now (by decide : 3 ≤ 3)
  have hzero : angleFormula (State.resetWith p).params (State.resetWith p).hall.rot
      (State.resetWith p).hall.sector = 0 := angleFormula_reset p
  rw [hzero] at hangle hminus
  have hstill (now : Time) : velocityFormula (State.resetWith p).params now (State.resetWith p).hall.ivl
      (State.resetWith p).hall.ts (State.resetWith p).hall.dir = 0 := velocityFormula_no_interval ..
  obtain ⟨hneeds, hhas⟩ := capabilityFlagsConstant (State.resetWith p)
  obtain ⟨hlevels, hraw, hsector, hdir, hrot, hts, hivl, hedges⟩ := fieldReadsAnswerRegisters (State.resetWith p)
  have h3 (key : Pin) (i : Fin 4) : (State.resetWith p).pwm.pool3[i] ≠ .pin key := pwmReset_marker_ne_pin (.s3 i) key
  have h4 (key : Pin) (k : Fin 2) : (State.resetWith p).pwm.pool4[k] ≠ .pin key := pwmReset_marker_ne_pin (.s4 k) key
  have h6 (key : Pin) (j : Fin 2) : (State.resetWith p).pwm.pool6[j] ≠ .pin key := pwmReset_marker_ne_pin (.s6 j) key
  refine ⟨hangle, fun now => ?_, ?_, hneeds, hhas, hlevels, hraw, hsector, hrot, hts, hivl, hedges, hdir,
    fun x lvl now => (edgePassTransition _ x lvl now).1 (resetWith_attached p x),
    fun key d₁ d₂ d₃ => (writeMissIsSilent _ key d₁ d₂ d₃ 0).1 (h3 key),
    fun key d₁ d₂ d₃ d₄ => (writeMissIsSilent _ key d₁ d₂ d₃ d₄).2.1 (h4 key),
    fun key d₁ d₂ d₃ => (writeMissIsSilent _ key d₁ d₂ d₃ 0).2.2 (h6 key), fun a b c => ?_, fun a b c d => ?_,
    fun a b c d e f => ?_⟩
  · rw [hvelocity, hstill]
  · rw [hminus, neg_zero]
  · obtain ⟨-, -, hclaims⟩ := allocThreePhaseFirstFit (State.resetWith p) a b c
    exact ⟨_, _, hclaims 0 .A rfl rfl nofun rfl, rfl, rfl, rfl⟩
  · obtain ⟨-, -, hclaims⟩ := allocStepperFirstFit (State.resetWith p) a b c d
    exact ⟨_, _, hclaims 0 rfl rfl nofun, rfl, rfl, rfl⟩
  · obtain ⟨-, -, hclaims⟩ := allocSixPhaseFirstFit (State.resetWith p) a b c d e f
    exact ⟨_, _, hclaims 0 rfl rfl nofun, rfl, rfl, rfl⟩

end Sys2Proof.Machine
end
